-- ==== Sys2Proof/Word.lean ====
section
/-! DEFINITION. The words of the PIP display engine: bytes and the one 16-bit width of coordinates and colours
(00_scope.md R9, 10_state.md R16, R19). -/

namespace Sys2Proof

/-- A byte, 0..255 (00_scope.md R9). -/
abbrev Byte := BitVec 8

/-- The 16-bit pattern of a coordinate register or operand (10_state.md R16). -/
abbrev Word := BitVec 16

/-- A 16-bit packed colour, 0..65535 (00_scope.md R9, 10_state.md R39); the engine never takes it apart but for the byte split. -/
abbrev Colour := BitVec 16

end Sys2Proof
end

