-- ==== Sys2Proof/Syntax.lean ====
section
/-! DEFINITION. The instructions of the engine, one constructor per row of spec/opcode_table.json: twelve host operations
(30_encoding.md R69) and the three instructions of the init table (30_encoding.md R60, R61). -/

namespace Sys2Proof

/-- The engine's two instruction levels (00_scope.md R3). Operands are the frame's or record's own fields, so that no encoded bit
is dropped: a coordinate is its 16-bit pattern, SETTEXTWRAP's boolean is its byte (30_encoding.md R70). -/
inductive Instr where
  /-- INIT, frame `00` (43_display_surface.md R117). -/
  | init
  /-- WRITE, frame `01 c` (R105). -/
  | write (code : Byte)
  /-- FILLRECT, frame `02 x y w h colour` (R114). -/
  | fillRect (x y w h : Word) (colour : Colour)
  /-- DRAWCHAR, frame `03 x y c fg bg` (R112). -/
  | drawChar (x y : Word) (code : Byte) (fg bg : Colour)
  /-- SETCURSOR, frame `04 col row` (R119). -/
  | setCursor (col row : Word)
  /-- SETTEXTCOLOUR, frame `05 v` (R120). -/
  | setTextColour (v : Colour)
  /-- GETTEXTCOLOUR, frame `06` (R121). -/
  | getTextColour
  /-- SETBGCOLOUR, frame `07 v` (R122). -/
  | setBgColour (v : Colour)
  /-- GETBGCOLOUR, frame `08` (R123). -/
  | getBgColour
  /-- SETTEXTWRAP, frame `09 b` (R124). -/
  | setTextWrap (b : Byte)
  /-- GETCURSORX, frame `0A` (R125). -/
  | getCursorX
  /-- GETCURSORY, frame `0B` (R126). -/
  | getCursorY
  /-- REC, an init-table record without delay (41_command_protocol.md R92). -/
  | record (cmd : Byte) (args : List Byte)
  /-- REC.D, an init-table record with a delay byte (41_command_protocol.md R93). -/
  | recordDelay (cmd : Byte) (args : List Byte) (delay : Byte)
  /-- `.count`, the init table's leading record count (30_encoding.md R61). -/
  | tableCount (count : Byte)
  deriving DecidableEq, Repr

/-- The three places an instruction is read from: the host port (30_encoding.md R68), byte 0 of the init table (R61), and the
records after it (R60). -/
inductive Stream where
  | host
  | header
  | records
  deriving DecidableEq, Repr

/-- The place each instruction is read from. -/
def Instr.stream : Instr → Stream
  | .record _ _ | .recordDelay _ _ _ => .records
  | .tableCount _ => .header
  | .init | .write _ | .fillRect _ _ _ _ _ | .drawChar _ _ _ _ _ | .setCursor _ _ | .setTextColour _ | .getTextColour
  | .setBgColour _ | .getBgColour | .setTextWrap _ | .getCursorX | .getCursorY => .host

end Sys2Proof
end

