-- ==== Sys2Proof/WellFormed.lean ====
section
/-! DEFINITION. Which instructions can be encoded. Every operand is as wide as its field, so the one check is the 7-bit argument
count of a record (30_encoding.md R60, R62). -/

namespace Sys2Proof

/-- An instruction that has an encoding: a record holds at most 127 argument bytes (30_encoding.md R60: "the literal argument
count", 0..127). -/
def Instr.wellFormed : Instr → Bool
  | .record _ args => decide (args.length ≤ 127)
  | .recordDelay _ args _ => decide (args.length ≤ 127)
  | .init | .write _ | .fillRect _ _ _ _ _ | .drawChar _ _ _ _ _ | .setCursor _ _ | .setTextColour _ | .getTextColour
  | .setBgColour _ | .getBgColour | .setTextWrap _ | .getCursorX | .getCursorY | .tableCount _ => true

end Sys2Proof
end

