-- ==== Sys2Proof/Decode.lean ====
section
/-! DEFINITION. From bytes to instructions and back: host frames (30_encoding.md R68 to R71), the init table's header and records
(R60 to R67), the words of spec/opcode_table.json, and the pseudo-instructions (R77). -/

namespace Sys2Proof

/-- hi8: bits 15..8 (00_scope.md R10). -/
def hi8 (v : BitVec 16) : Byte := v.extractLsb' 8 8

/-- lo8: bits 7..0 (00_scope.md R10). -/
def lo8 (v : BitVec 16) : Byte := v.extractLsb' 0 8

/-- A 16-bit operand, high byte first (30_encoding.md R68, R70). -/
def joinBytes (hi lo : Byte) : BitVec 16 := hi ++ lo

/-- `n = b[6:0]`, the literal argument count (30_encoding.md R62). -/
def argCount (b : Byte) : Nat := (b.extractLsb' 0 7).toNat

/-- `dly = b[7]`, DELAY_FLAG (30_encoding.md R60, R62). -/
def delayFlag (b : Byte) : Bool := b.getLsbD 7

/-- The argument-count byte of a record with n arguments and the given delay flag (30_encoding.md R60). -/
def countByte (dly : Bool) (n : Nat) : Byte := BitVec.ofNat 8 ((if dly then 128 else 0) + n)

/-- The length of a record, `2 + n + dly` (30_encoding.md R64). -/
def recordLength (dly : Bool) (n : Nat) : Nat := 2 + n + (if dly then 1 else 0)

/-- `ms = 500 if delay = 255 else delay`, LONG_DELAY_ESCAPE and LONG_DELAY_MS (30_encoding.md R63). -/
def delayMs (d : Byte) : Nat := if d.toNat = 255 then 500 else d.toNat

/-- The delay byte the table assembler writes for `ms`; any `ms` but 0..254 and 500 cannot be encoded (30_encoding.md R77). -/
def encodeDelayMs (ms : Nat) : Option Byte :=
  if ms ≤ 254 then some (BitVec.ofNat 8 ms) else if ms = 500 then some (BitVec.ofNat 8 255) else none

/-- Why bytes spell no instruction. -/
inductive Reject where
  /-- A frame without a byte. -/
  | emptyFrame
  /-- An opcode byte 0x0C..0xFF, which spells no operation (30_encoding.md R71). -/
  | reservedOpcode (op : Byte)
  /-- A frame of a defined opcode that is shorter or longer than that operation's frame (R69). -/
  | wrongLength (op : Byte)
  /-- The table ends before the record does (30_encoding.md R67). -/
  | truncatedRecord
  /-- The table ends before its record count (30_encoding.md R67). -/
  | missingCount
  deriving DecidableEq, Repr

/-- The operands of the operation with this opcode; none for a reserved opcode or operand bytes of the wrong number (R69). -/
def decodeOperands (op : Nat) (ops : List Byte) : Option Instr :=
  match op with
  | 0 => match ops with
    | [] => some .init
    | _ => none
  | 1 => match ops with
    | [c] => some (.write c)
    | _ => none
  | 2 => match ops with
    | [xh, xl, yh, yl, wh, wl, hh, hl, kh, kl] =>
      some (.fillRect (joinBytes xh xl) (joinBytes yh yl) (joinBytes wh wl) (joinBytes hh hl) (joinBytes kh kl))
    | _ => none
  | 3 => match ops with
    | [xh, xl, yh, yl, c, fh, fl, bh, bl] =>
      some (.drawChar (joinBytes xh xl) (joinBytes yh yl) c (joinBytes fh fl) (joinBytes bh bl))
    | _ => none
  | 4 => match ops with
    | [ch, cl, rh, rl] => some (.setCursor (joinBytes ch cl) (joinBytes rh rl))
    | _ => none
  | 5 => match ops with
    | [vh, vl] => some (.setTextColour (joinBytes vh vl))
    | _ => none
  | 6 => match ops with
    | [] => some .getTextColour
    | _ => none
  | 7 => match ops with
    | [vh, vl] => some (.setBgColour (joinBytes vh vl))
    | _ => none
  | 8 => match ops with
    | [] => some .getBgColour
    | _ => none
  | 9 => match ops with
    | [b] => some (.setTextWrap b)
    | _ => none
  | 10 => match ops with
    | [] => some .getCursorX
    | _ => none
  | 11 => match ops with
    | [] => some .getCursorY
    | _ => none
  | _ => none

/-- A host request frame: one opcode byte, then exactly that operation's operand bytes (30_encoding.md R68, R69, R71). -/
def decodeFrame (frame : List Byte) : Except Reject Instr :=
  match frame with
  | [] => .error .emptyFrame
  | op :: ops =>
    if 12 ≤ op.toNat then .error (.reservedOpcode op)
    else match decodeOperands op.toNat ops with
      | some i => .ok i
      | none => .error (.wrongLength op)

/-- The init table's leading record count, one byte, and the bytes after it (30_encoding.md R61). -/
def decodeHeader (bytes : List Byte) : Except Reject (Instr × List Byte) :=
  match bytes with
  | [] => .error .missingCount
  | n :: rest => .ok (.tableCount n, rest)

/-- One record and the bytes after it (30_encoding.md R60 to R65). -/
def decodeRecord (bytes : List Byte) : Except Reject (Instr × List Byte) :=
  match bytes with
  | cmd :: b :: rest =>
    if rest.length < argCount b then .error .truncatedRecord
    else if delayFlag b then
      match rest.drop (argCount b) with
      | d :: tail => .ok (.recordDelay cmd (rest.take (argCount b)) d, tail)
      | [] => .error .truncatedRecord
    else .ok (.record cmd (rest.take (argCount b)), rest.drop (argCount b))
  | _ => .error .truncatedRecord

/-- The instruction at the front of the bytes of a stream, and the bytes after it; a host frame is one instruction and no more. -/
def decode (st : Stream) (bytes : List Byte) : Except Reject (Instr × List Byte) :=
  match st with
  | .host => (decodeFrame bytes).map fun i => (i, [])
  | .header => decodeHeader bytes
  | .records => decodeRecord bytes

/-- n records in a row (30_encoding.md R65). -/
def decodeRecords (n : Nat) (bytes : List Byte) : Except Reject (List Instr × List Byte) :=
  match n with
  | 0 => .ok ([], bytes)
  | n + 1 =>
    match decodeRecord bytes with
    | .error r => .error r
    | .ok (i, rest) =>
      match decodeRecords n rest with
      | .error r => .error r
      | .ok (is, tail) => .ok (i :: is, tail)

/-- The records of a whole table: as many as byte 0 says, whatever follows them (30_encoding.md R61, R67). -/
def decodeTable (table : List Byte) : Except Reject (List Instr) :=
  match table with
  | [] => .error .missingCount
  | n :: rest =>
    match decodeRecords n.toNat rest with
    | .error r => .error r
    | .ok (is, _) => .ok is

/-- `wf(INIT_TABLE)` (30_encoding.md R67). -/
def tableWf (table : List Byte) : Bool :=
  match decodeTable table with
  | .ok _ => true
  | .error _ => false

/-- The two bytes of a 16-bit operand in a frame, high byte first (30_encoding.md R68). -/
def encodeWord (v : BitVec 16) : List Byte := [hi8 v, lo8 v]

/-- The bytes of an instruction: its host frame (30_encoding.md R69), its record (R60) or the table's count byte (R61). -/
def encode (i : Instr) : List Byte :=
  match i with
  | .init => [0x00#8]
  | .write c => [0x01#8, c]
  | .fillRect x y w h k => 0x02#8 :: (encodeWord x ++ encodeWord y ++ encodeWord w ++ encodeWord h ++ encodeWord k)
  | .drawChar x y c fg bg => 0x03#8 :: (encodeWord x ++ encodeWord y ++ [c] ++ encodeWord fg ++ encodeWord bg)
  | .setCursor col row => 0x04#8 :: (encodeWord col ++ encodeWord row)
  | .setTextColour v => 0x05#8 :: encodeWord v
  | .getTextColour => [0x06#8]
  | .setBgColour v => 0x07#8 :: encodeWord v
  | .getBgColour => [0x08#8]
  | .setTextWrap b => [0x09#8, b]
  | .getCursorX => [0x0A#8]
  | .getCursorY => [0x0B#8]
  | .record cmd args => cmd :: countByte false args.length :: args
  | .recordDelay cmd args d => cmd :: countByte true args.length :: (args ++ [d])
  | .tableCount n => [n]

/-- How many bytes an instruction has: the frame lengths of 30_encoding.md R69 and the record lengths of R64. -/
def encodedLength (i : Instr) : Nat :=
  match i with
  | .init => 1
  | .write _ => 2
  | .fillRect _ _ _ _ _ => 11
  | .drawChar _ _ _ _ _ => 10
  | .setCursor _ _ => 5
  | .setTextColour _ => 3
  | .getTextColour => 1
  | .setBgColour _ => 3
  | .getBgColour => 1
  | .setTextWrap _ => 2
  | .getCursorX => 1
  | .getCursorY => 1
  | .record _ args => recordLength false args.length
  | .recordDelay _ args _ => recordLength true args.length
  | .tableCount _ => 1

/-- `print "s"`: one WRITE per character, in order (30_encoding.md R77). -/
def printProgram (s : List Byte) : List Instr := s.map .write

/-- `clear()` with the colour its GETBGCOLOUR has answered: GETBGCOLOUR, then FILLRECT(0, 0, WIDTH, HEIGHT, that colour) (R77). -/
def clearProgram (width height : Nat) (bg : Colour) : List Instr :=
  [.getBgColour, .fillRect 0#16 0#16 (BitVec.ofNat 16 width) (BitVec.ofNat 16 height) bg]

/-- The frame length of a defined opcode (30_encoding.md R69), 1 for a reserved one. -/
def frameLength (op : Nat) : Nat :=
  match op with
  | 1 => 2
  | 2 => 11
  | 3 => 10
  | 4 => 5
  | 5 => 3
  | 7 => 3
  | 9 => 2
  | _ => 1

/-- Byte k of a word whose bit 0 is the least significant bit of its first byte. -/
def wordByte (w k : Nat) : Byte := BitVec.ofNat 8 (w >>> (8 * k))

/-- Which stream a word of spec/opcode_table.json belongs to (log entry 14): the table's 8-bit rows are the operand-less host
operations and `.count`, its 16-bit rows are WRITE, SETTEXTWRAP and the two record headers, its other rows are host operations. -/
def wordStream (nbits w : Nat) : Stream :=
  if nbits = 8 then
    if w % 256 = 0 ∨ w % 256 = 6 ∨ w % 256 = 8 ∨ w % 256 = 10 ∨ w % 256 = 11 then .host else .header
  else if nbits = 16 then
    if w % 256 = 1 ∨ w % 256 = 9 then .host else .records
  else .host

/-- The bytes, as the hardware stores them, of the instruction whose table word is w. A frame's bytes follow each other from bit 0
on. A record's two header bytes are one 16-bit word stored high byte first (opcode_table.json: "record bytes 0 and 1 taken as a
16-bit value, byte 0 high"); its argument and delay bytes have no bits in the table and are zero. -/
def wordBytes (nbits w : Nat) : List Byte :=
  match wordStream nbits w with
  | .host => (List.range (max (nbits / 8) (frameLength (w % 256)))).map (wordByte w)
  | .header => [wordByte w 0]
  | .records =>
    wordByte w 1 :: wordByte w 0
      :: List.replicate (argCount (wordByte w 0) + (if delayFlag (wordByte w 0) then 1 else 0)) 0#8

/-- What the decoder reads from a word of spec/opcode_table.json. -/
def decodeTableWord (nbits w : Nat) : Option Instr :=
  match decode (wordStream nbits w) (wordBytes nbits w) with
  | .ok (i, _) => some i
  | .error _ => none

end Sys2Proof
end

