-- ==== Sys2Proof/Config.lean ====
section
/-! DEFINITION. What one construction of the engine fixes: the parameters of 00_scope.md section 4, their constraints, and the
constants without a body that stand for what the spec leaves open at State.reset. -/

namespace Sys2Proof

/-- The construction parameters (00_scope.md R7, R8 and the parameter table; 10_state.md R13, R14). -/
structure Params where
  /-- WIDTH, the surface's width in pixels. -/
  width : Nat
  /-- HEIGHT, the surface's height in pixels. -/
  height : Nat
  /-- TEXTWIDTH, the glyph cell's width in pixels. -/
  textWidth : Nat
  /-- TEXTHEIGHT, the glyph cell's height in pixels. -/
  textHeight : Nat
  /-- FONT: glyph g is entry g, its column i is byte i (20_memory.md R42). -/
  font : List (List Byte)
  /-- INIT_TABLE, a list of TABLE_LEN bytes (20_memory.md R41). -/
  initTable : List Byte
  /-- CMD_COLSET, "set column range" (41_command_protocol.md R88). -/
  cmdColset : Byte
  /-- CMD_ROWSET, "set row range". -/
  cmdRowset : Byte
  /-- CMD_RAMWR, "begin memory write". -/
  cmdRamwr : Byte
  /-- BUS_TIMEOUT: none waits for ever, a bound (in no stated unit) turns a stalled byte into a fault (60_exceptions.md R134). -/
  busTimeout : Option Nat
  /-- RESET_TEXTCOLOUR (10_state.md R33). -/
  resetTextColour : Colour
  /-- RESET_BGCOLOUR (10_state.md R33). -/
  resetBgColour : Colour
  /-- RESET_WRAP (10_state.md R33). -/
  resetWrap : Bool
  deriving DecidableEq, Repr

/-- The spec's constraints on the parameters: 1..32767 for WIDTH and HEIGHT (R7), TEXTWIDTH >= 1 and 1..8 for TEXTHEIGHT (R8), and
a FONT that gives a byte for each glyph 0..97 and each drawable column 0..TEXTWIDTH-2 (20_memory.md R42). INIT_TABLE is free. -/
def Params.wf (p : Params) : Bool :=
  decide (1 ≤ p.width ∧ p.width ≤ 32767) && decide (1 ≤ p.height ∧ p.height ≤ 32767) && decide (1 ≤ p.textWidth)
    && decide (1 ≤ p.textHeight ∧ p.textHeight ≤ 8) && decide (p.font.length = 98)
    && p.font.all (fun g => decide (p.textWidth ≤ g.length + 1))

/-- CURSOR_WIDTH, the number of whole cells in a row (10_state.md R15); no operation reads it. -/
def Params.cursorWidth (p : Params) : Nat := p.width / p.textWidth

/-- CURSOR_HEIGHT, the number of whole cells in a column (10_state.md R15); no operation reads it. -/
def Params.cursorHeight (p : Params) : Nat := p.height / p.textHeight

namespace Config

/-- RESET_TEXTCOLOUR of the construction State.reset stands for: open (10_state.md R33, 93 U17). -/
opaque resetTextColour : Colour

/-- RESET_BGCOLOUR of that construction: open (10_state.md R33, 93 U17). -/
opaque resetBgColour : Colour

/-- RESET_WRAP of that construction: open (10_state.md R33, 93 U17). -/
opaque resetWrap : Bool

/-- CMD_COLSET of that construction: open (92 D7). -/
opaque cmdColset : Byte

/-- CMD_ROWSET of that construction: open (92 D7). -/
opaque cmdRowset : Byte

/-- CMD_RAMWR of that construction: open (92 D7). -/
opaque cmdRamwr : Byte

/-- INIT_TABLE of that construction: open (92 D8). -/
opaque initTable : List Byte

/-- FONT of that construction, glyph and column to byte: open (92 D8, 93 U11). -/
opaque font : Nat → Nat → Byte

/-- The level of CS between reset and its first write: a draw (10_state.md R33, 92 D10). -/
opaque csAtReset : Bool

/-- The level of DC between reset and its first write: a draw (10_state.md R33, 92 D10). -/
opaque dcAtReset : Bool

/-- The level of RST between reset and its first write: a draw (10_state.md R33, 92 D10). -/
opaque rstAtReset : Bool

/-- The oracle BusDone's answers after reset: how many bytes complete before one never does, none when every byte completes
(40_bus_transport.md R78, 92 D33). -/
opaque busLeft : Option Nat

/-- The construction State.reset stands for. DESIGN CHOICE (log entry 2): the 128 by 128 surface and 6 by 8 cell of the spec's
fixture S; BUS_TIMEOUT is the spec's default; everything else is open. No statement rests on these numbers. -/
def built : Params where
  width := 128
  height := 128
  textWidth := 6
  textHeight := 8
  font := (List.range 98).map fun g => (List.range 5).map fun i => font g i
  initTable := initTable
  cmdColset := cmdColset
  cmdRowset := cmdRowset
  cmdRamwr := cmdRamwr
  busTimeout := none
  resetTextColour := resetTextColour
  resetBgColour := resetBgColour
  resetWrap := resetWrap

end Config

end Sys2Proof
end

