-- ==== Sys2Proof/Machine/State.lean ====
section
/-! DEFINITION. The engine's state as plain data (10_state.md R13), its state after reset (R33), and the ways a step can stop. -/

namespace Sys2Proof.Machine

/-- The three lines between the engine and the panel (00_scope.md section 6). -/
inductive Line where
  /-- Chip-select, low = selected (10_state.md R25). -/
  | cs
  /-- Command/data select, low = command (R26). -/
  | dc
  /-- Panel reset (R27). -/
  | rst
  deriving DecidableEq, Repr

/-- The alphabet of the event history (10_state.md R31). Levels are Bool, true = high = 1. -/
inductive Event where
  /-- `Dir(l)`: line l configured as an output. -/
  | dir (l : Line)
  /-- `Line(l, v)`: line l driven to level v. -/
  | line (l : Line) (v : Bool)
  /-- `Byte(b)`: b shifted out, completion signalled. -/
  | byte (b : Byte)
  /-- `Delay(ms)`: the engine blocked for ms milliseconds. -/
  | delay (ms : Nat)
  /-- `Ret(v)`: the response of a host operation, a getter's 16-bit pattern or WRITE's 1 (30_encoding.md R72). -/
  | ret (v : Word)
  deriving DecidableEq, Repr

/-- The fault causes of 60_exceptions.md R132. They are values of the register `fault`: raising one is a next state. -/
inductive Cause where
  /-- 1: a table read at this offset, at or past TABLE_LEN (R133). -/
  | decodeError (offset : Nat)
  /-- 2: this byte was not completed within BUS_TIMEOUT (R134). -/
  | peripheralTimeout (b : Byte)
  /-- 3: a bus micro-operation before INIT (R135). -/
  | notInitialised
  /-- 4: a coordinate outside -32768..32767 (R136). -/
  | coordOverflow
  /-- 5: a FILLRECT extent the source does not cover (R137). -/
  | operandUnspecified
  deriving DecidableEq, Repr

/-- The cause codes of 60_exceptions.md R132. -/
def Cause.code : Cause → Nat
  | .decodeError _ => 1
  | .peripheralTimeout _ => 2
  | .notInitialised => 3
  | .coordOverflow => 4
  | .operandUnspecified => 5

/-- The non-fatal outcomes of 60_exceptions.md R138. -/
inductive Status where
  | ok
  | outOfBounds
  | clippedPartial
  | illegalOp
  deriving DecidableEq, Repr

/-- The status codes of 60_exceptions.md R138. -/
def Status.code : Status → Nat
  | .ok => 0
  | .outOfBounds => 1
  | .clippedPartial => 2
  | .illegalOp => 3

/-- What the next step does. The model's own field: INIT, the one operation that fetches, takes several steps (log entry 7). -/
inductive Phase where
  /-- Between host operations: the next step serves the host port. -/
  | idle
  /-- In INIT: the next step reads the table's record count (41_command_protocol.md R91). -/
  | header
  /-- In INIT: the next step executes the record at tp, or INIT's closing fill when rc is 0 (R91, 43_display_surface.md R117). -/
  | records
  deriving DecidableEq, Repr

/-- One host request frame (30_encoding.md R68). -/
abbrev Frame := List Byte

/-- Everything the spec gives the engine (10_state.md R13), the construction parameters, and five fields of the model's own
(drawStatus, phase, stuck, host, busLeft). -/
structure State where
  /-- The construction parameters; no step writes them (10_state.md R13, R14; log entry 1). -/
  params : Params
  /-- `cursorX` (R17). -/
  cursorX : Word
  /-- `cursorY` (R18). -/
  cursorY : Word
  /-- `textColour` (R19). -/
  textColour : Colour
  /-- `backgroundColour` (R20). -/
  backgroundColour : Colour
  /-- `wrap` (R21). -/
  wrap : Bool
  /-- `tp`, the init-table pointer, the engine's only program counter (R23). -/
  tp : Nat
  /-- `rc`, the remaining-record counter (R24). -/
  rc : Nat
  /-- The level of CS (R25). -/
  cs : Bool
  /-- The level of DC (R26). -/
  dc : Bool
  /-- The level of RST (R27). -/
  rst : Bool
  /-- Whether CS is an output (R25, R33). -/
  csOut : Bool
  /-- Whether DC is an output (R26, R33). -/
  dcOut : Bool
  /-- Whether RST is an output (R27, R33). -/
  rstOut : Bool
  /-- `initialised` (R28). -/
  initialised : Bool
  /-- `fault` (R29). -/
  fault : Option Cause
  /-- `status` (R30): the outcome of the last completed host operation. -/
  status : Status
  /-- What the status line of DRAWCHAR's body has written inside a WRITE that has not ended (43_display_surface.md R108, R112, R113):
  the end of the WRITE takes it into `status`, a raise before it leaves it here (60_exceptions.md R149). The model's own; log entry
  11. -/
  drawStatus : Option Status
  /-- `hist`, the event history, oldest first (R31). -/
  hist : List Event
  /-- How far INIT has come (the model's own; log entry 7). -/
  phase : Phase
  /-- The byte the engine waits on for ever (60_exceptions.md R148; the model's own; log entry 9). -/
  stuck : Option Byte
  /-- The request frames the host has still to issue, the next one first (20_memory.md R44; the model's own; log entry 8). -/
  host : List Frame
  /-- The oracle BusDone (40_bus_transport.md R78): none when every byte completes, some n when the next n bytes complete and the
  byte after them never does. A FREE VALUE of the model's own (log entry 6). -/
  busLeft : Option Nat
  deriving DecidableEq, Repr

/-- The model's stop. Every fault of the SPEC is a value of `State.fault` and a next state. -/
inductive Fault where
  /-- Raised by `step`, and by every instruction's meaning, in a state whose `stuck` holds a byte: the engine waits for ever on that
  byte and has no further step (60_exceptions.md R148). Safe: the spec gives no further step. -/
  | busStalled
  deriving DecidableEq, Repr

/-- Where the model gives no meaning. -/
inductive Refusal where
  /-- An instruction without a meaning in this model. No arm of `exec` answers with it. Safe. -/
  | notModelled (mnemonic : String)
  /-- Raised by `step` for a host frame that is empty, or whose defined opcode has operand bytes of the wrong number: the spec
  defines no such frame (30_encoding.md R68; log entry 10). Safe: the run stops and claims nothing. -/
  | malformedFrame
  deriving DecidableEq, Repr

/-- Construction, the engine's reset (70_reset_and_hazards.md R150): every piece of state at the value of 10_state.md R33, for any
parameters, any draw of the three line levels and any answers of the bus peripheral. `tp` and `rc`, which have no value until they
are written, are 0 (DESIGN CHOICE, log entry 5). -/
def State.construct (p : Params) (cs dc rst : Bool) (busLeft : Option Nat) : State where
  params := p
  cursorX := 0
  cursorY := 0
  textColour := p.resetTextColour
  backgroundColour := p.resetBgColour
  wrap := p.resetWrap
  tp := 0
  rc := 0
  cs := cs
  dc := dc
  rst := rst
  csOut := false
  dcOut := false
  rstOut := false
  initialised := false
  fault := none
  status := .ok
  drawStatus := none
  hist := []
  phase := .idle
  stuck := none
  host := []
  busLeft := busLeft

/-- The machine right after reset: one construction, with every value the spec leaves open a constant without a body but for the
surface and cell size (log entries 2, 3, 4, 6). -/
def State.reset : State :=
  State.construct Config.built Config.csAtReset Config.dcAtReset Config.rstAtReset Config.busLeft

end Sys2Proof.Machine
end

