-- ==== Sys2Proof/Machine/Ops.lean ====
section
/-! DEFINITION. The named operations every meaning is built from: how a piece of pseudocode ends, fault entry, the writes of the
registers and lines, the reads of the two tables. -/

namespace Sys2Proof.Machine

/-- How a piece of pseudocode ends: it returns, or the operation in progress ends there, by `raise` (60_exceptions.md R131) or in a
byte that never completes (R148). Either way the state holds what was done up to that point (R149). -/
inductive Progress where
  | done (s : State)
  | halted (s : State)
  deriving DecidableEq, Repr

/-- The state a piece of pseudocode leaves. -/
def Progress.state : Progress → State
  | .done s => s
  | .halted s => s

/-- `a ; b`: b runs only if a returned (00_scope.md R11). -/
def Progress.andThen (a : Progress) (b : State → Progress) : Progress :=
  match a with
  | .done s => b s
  | .halted s => .halted s

/-- `raise c` (60_exceptions.md R131): the fault register takes the cause and the operation in progress is over; nothing is appended
to the history, no register is saved or restored, the line levels stay. There is no return from a fault (R145). -/
def raise (c : Cause) (s : State) : Progress := .halted { s with fault := some c, phase := .idle }

/-- The engine waits on byte b for ever (60_exceptions.md R148): `fault` stays none and the operation in progress never ends. -/
def hang (b : Byte) (s : State) : Progress := .halted { s with stuck := some b }

/-- `emit(e)`: append e to the history (10_state.md R31). -/
def emit (e : Event) (s : State) : State := { s with hist := s.hist ++ [e] }

/-- The level register of a line takes v (10_state.md R25 to R27). -/
def setLevel (l : Line) (v : Bool) (s : State) : State :=
  match l with
  | .cs => { s with cs := v }
  | .dc => { s with dc := v }
  | .rst => { s with rst := v }

/-- The direction of a line becomes output (10_state.md R33). -/
def setOutput (l : Line) (s : State) : State :=
  match l with
  | .cs => { s with csOut := true }
  | .dc => { s with dcOut := true }
  | .rst => { s with rstOut := true }

/-- `l <- v ; emit(Line(l, v))`: the event is appended although the level may not change (10_state.md R31). -/
def driveLine (l : Line) (v : Bool) (s : State) : State := emit (.line l v) (setLevel l v s)

/-- Line l becomes an output, with its `Dir(l)` event (43_display_surface.md R117). -/
def configureOutput (l : Line) (s : State) : State := emit (.dir l) (setOutput l s)

/-- `emit(Delay(ms))` (10_state.md R31, 60_exceptions.md R143). -/
def delayFor (ms : Nat) (s : State) : State := emit (.delay ms) s

/-- `emit(Ret(v))`, the response of a host operation (10_state.md R31). -/
def respond (v : Word) (s : State) : State := emit (.ret v) s

/-- `cursorX <- w`. -/
def setCursorX (w : Word) (s : State) : State := { s with cursorX := w }

/-- `cursorY <- w`. -/
def setCursorY (w : Word) (s : State) : State := { s with cursorY := w }

/-- `status <- st`. -/
def setStatus (st : Status) (s : State) : State := { s with status := st }

/-- The status line of DRAWCHAR's body inside a WRITE (43_display_surface.md R108): written, but not yet an operation's outcome. -/
def stageStatus (st : Status) (s : State) : State := { s with drawStatus := some st }

/-- The end of that WRITE: what its status line wrote is its outcome (43_display_surface.md R108, 10_state.md R30). -/
def commitStatus (s : State) : State := { s with status := s.drawStatus.getD s.status, drawStatus := none }

/-- The status as the lines `status <- ...` executed so far have left it, also those of an operation that a raise ended
(60_exceptions.md R149): it differs from `status` only after a WRITE that faulted behind its drawing. -/
def State.statusWritten (s : State) : Status := s.drawStatus.getD s.status

/-- `TableRead(a)` (20_memory.md R41): byte a of INIT_TABLE, nothing at or past TABLE_LEN. -/
def tableRead (a : Nat) (s : State) : Option Byte := s.params.initTable[a]?

/-- `tp` moves on by n bytes read (10_state.md R23: never backward, never by a jump). -/
def advanceTp (n : Nat) (s : State) : State := { s with tp := s.tp + n }

/-- `TableRead(tp) ; tp <- tp + 1`, then k with the byte; a read at or past TABLE_LEN raises DecodeError(tp)
(20_memory.md R41, 41_command_protocol.md R95). -/
def readTable (k : Byte → State → Progress) (s : State) : Progress :=
  match tableRead s.tp s with
  | none => raise (.decodeError s.tp) s
  | some b => k b (advanceTp 1 s)

/-- `FontRead(g, i)` (20_memory.md R42), total: 0 outside a font that meets `Params.wf`, where no meaning reads (log entry 13). -/
def fontRead (p : Params) (g i : Nat) : Byte := ((p.font[g]?).getD [])[i]?.getD 0#8

/-- One instruction's pseudocode in the engine's three conditions: a stuck engine has no further step (60_exceptions.md R148), a
faulted engine refuses without any effect (R131), and otherwise the pseudocode runs; a `raise` inside it is a next state. -/
def guarded (body : State → Progress) (s : State) : Host.Outcome State Fault Refusal :=
  if s.stuck.isSome then .fault .busStalled
  else if s.fault.isSome then .next s
  else .next (body s).state

end Sys2Proof.Machine
end

