-- ==== Sys2Proof/Machine/Operands.lean ====
section
/-! DEFINITION. Operand forms (30_encoding.md R70, 00_scope.md R9, R10): coordinates between 16-bit patterns and integers, the wrap
operand, and the checked write of a coordinate register. -/

namespace Sys2Proof.Machine

/-- The coordinate a 16-bit pattern stands for, two's complement (30_encoding.md R70). -/
abbrev coord (w : Word) : Int := w.toInt

/-- Whether an integer is a coordinate, -32768..32767 (00_scope.md R9). -/
def inCoord (v : Int) : Bool := decide (-32768 ≤ v ∧ v ≤ 32767)

/-- `u16(c)`, the 16-bit pattern of a coordinate (00_scope.md R10). -/
def u16 (c : Int) : Word := BitVec.ofInt 16 c

/-- The wrap operand: byte 0 is false, any other byte true (30_encoding.md R70). -/
def wrapOperand (b : Byte) : Bool := decide (b.toNat ≠ 0)

/-- A write of a coordinate register: outside the 16-bit range it is not written and CoordOverflow is raised
(00_scope.md R9, 60_exceptions.md R136). -/
def putCoord (v : Int) (write : Word → State → State) (s : State) : Progress :=
  if inCoord v then .done (write (u16 v) s) else raise .coordOverflow s

end Sys2Proof.Machine
end

