-- ==== Sys2Proof/Machine/Accessors.lean ====
section
/-! DEFINITION. The accessors (43_display_surface.md R119 to R127): no bus activity, status Ok, only SETCURSOR can fault. -/

namespace Sys2Proof.Machine

/-- The body of SETCURSOR (R119): glyph-grid to pixel coordinates; both registers are written or neither. -/
def setCursorBody (col row : Int) (s : State) : Progress :=
  let nx := col * s.params.textWidth
  let ny := row * s.params.textHeight
  if inCoord nx && inCoord ny then .done (setStatus .ok (setCursorY (u16 ny) (setCursorX (u16 nx) s)))
  else raise .coordOverflow s

/-- SETCURSOR (R119). -/
def execSetCursor (col row : Word) (s : State) : Host.Outcome State Fault Refusal :=
  guarded (setCursorBody (coord col) (coord row)) s

/-- SETTEXTCOLOUR (R120). -/
def execSetTextColour (v : Colour) (s : State) : Host.Outcome State Fault Refusal :=
  guarded (fun s => .done (setStatus .ok { s with textColour := v })) s

/-- GETTEXTCOLOUR (R121). -/
def execGetTextColour (s : State) : Host.Outcome State Fault Refusal :=
  guarded (fun s => .done (setStatus .ok (respond s.textColour s))) s

/-- SETBGCOLOUR (R122). -/
def execSetBgColour (v : Colour) (s : State) : Host.Outcome State Fault Refusal :=
  guarded (fun s => .done (setStatus .ok { s with backgroundColour := v })) s

/-- GETBGCOLOUR (R123). -/
def execGetBgColour (s : State) : Host.Outcome State Fault Refusal :=
  guarded (fun s => .done (setStatus .ok (respond s.backgroundColour s))) s

/-- SETTEXTWRAP (R124). -/
def execSetTextWrap (b : Byte) (s : State) : Host.Outcome State Fault Refusal :=
  guarded (fun s => .done (setStatus .ok { s with wrap := wrapOperand b })) s

/-- GETCURSORX (R125): the register's 16-bit pattern, in pixels (30_encoding.md R72). -/
def execGetCursorX (s : State) : Host.Outcome State Fault Refusal :=
  guarded (fun s => .done (setStatus .ok (respond s.cursorX s))) s

/-- GETCURSORY (R126). -/
def execGetCursorY (s : State) : Host.Outcome State Fault Refusal :=
  guarded (fun s => .done (setStatus .ok (respond s.cursorY s))) s

end Sys2Proof.Machine
end

