-- ==== Sys2Proof/Machine/BusTransport.lean ====
section
/-! DEFINITION. The Bus Transport micro-operations (40_bus_transport.md R78 to R83). -/

namespace Sys2Proof.Machine

/-- The oracle after one completed byte: one byte fewer until the one that never completes. -/
def busSpendOne (o : Option Nat) : Option Nat :=
  match o with
  | none => none
  | some n => some (n - 1)

/-- BusWrite(b) (R78). The oracle answers `never` when `busLeft` is some 0: without a timeout the engine hangs, with one it raises
PeripheralTimeout; in neither case a `Byte` event is appended. -/
def busWrite (b : Byte) (s : State) : Progress :=
  if s.initialised = false then raise .notInitialised s
  else if s.busLeft = some 0 then
    match s.params.busTimeout with
    | none => hang b s
    | some _ => raise (.peripheralTimeout b) s
  else .done (emit (.byte b) { s with busLeft := busSpendOne s.busLeft })

/-- sendCommand(b) (R79): DC low before CS low, one byte, CS high. -/
def sendCommand (b : Byte) (s : State) : Progress :=
  if s.initialised = false then raise .notInitialised s
  else (busWrite b (driveLine .cs false (driveLine .dc false s))).andThen fun s => .done (driveLine .cs true s)

/-- sendData(b) (R80): DC high before CS low, one byte, CS high. -/
def sendData (b : Byte) (s : State) : Progress :=
  if s.initialised = false then raise .notInitialised s
  else (busWrite b (driveLine .cs false (driveLine .dc true s))).andThen fun s => .done (driveLine .cs true s)

/-- openBurst() (R81). -/
def openBurst (s : State) : Progress :=
  if s.initialised = false then raise .notInitialised s
  else .done (driveLine .cs false (driveLine .dc true s))

/-- burstSample(v) (R82): high byte first, no line activity. -/
def burstSample (v : Colour) (s : State) : Progress :=
  (busWrite (hi8 v) s).andThen (busWrite (lo8 v))

/-- closeBurst() (R83). -/
def closeBurst (s : State) : State := driveLine .cs true s

/-- A run of samples, one burstSample each, in order (43_display_surface.md R113, R116). -/
def burstSamples (vs : List Colour) (s : State) : Progress :=
  match vs with
  | [] => .done s
  | v :: vs => (burstSample v s).andThen (burstSamples vs)

end Sys2Proof.Machine
end

