-- ==== Sys2Proof/Machine/CommandProtocol.lean ====
section
/-! DEFINITION. The Command Protocol (41_command_protocol.md): the addressing window, the three init-table instructions, and the
byte-wise record interpreter of R92 and R93. -/

namespace Sys2Proof.Machine

/-- send16(c) (R86): the 16-bit pattern of c as two data transactions, high byte first. -/
def send16 (c : Int) (s : State) : Progress :=
  (sendData (hi8 (u16 c)) s).andThen (sendData (lo8 (u16 c)))

/-- setAddressingWindow(x0, y0, x1, y1) (R87 to R89): y on the column command, then x on the row command, no check of any kind; the
burst is open on return. -/
def setAddressingWindow (x0 y0 x1 y1 : Int) (s : State) : Progress :=
  (sendCommand s.params.cmdColset s).andThen fun s =>
  (send16 y0 s).andThen fun s =>
  (send16 y1 s).andThen fun s =>
  (sendCommand s.params.cmdRowset s).andThen fun s =>
  (send16 x0 s).andThen fun s =>
  (send16 x1 s).andThen fun s =>
  (sendCommand s.params.cmdRamwr s).andThen openBurst

/-- The argument bytes of a decoded record: each is read at tp and sent as data before the next is read (R92). -/
def sendArguments (args : List Byte) (s : State) : Progress :=
  match args with
  | [] => .done s
  | a :: args => (sendData a (advanceTp 1 s)).andThen (sendArguments args)

/-- The delay byte of a decoded record: read at tp, then the delay (R93). -/
def takeDelay (d : Byte) (s : State) : State := delayFor (delayMs d) (advanceTp 1 s)

/-- `rc <- rc - 1` after a record (R91). -/
def endRecord (s : State) : State := { s with rc := s.rc - 1 }

/-- A decoded record without its delay: the two header bytes are read, the command goes out, then the arguments (R92). -/
def recordBody (cmd : Byte) (args : List Byte) (s : State) : Progress :=
  (sendCommand cmd (advanceTp 2 s)).andThen (sendArguments args)

/-- REC (R92), with the count-down of R91's loop. -/
def execRecord (cmd : Byte) (args : List Byte) (s : State) : Host.Outcome State Fault Refusal :=
  guarded (fun s => (recordBody cmd args s).andThen fun s => .done (endRecord s)) s

/-- REC.D (R93), with the count-down of R91's loop. -/
def execRecordDelay (cmd : Byte) (args : List Byte) (delay : Byte) (s : State) : Host.Outcome State Fault Refusal :=
  guarded (fun s => (recordBody cmd args s).andThen fun s => .done (endRecord (takeDelay delay s))) s

/-- `.count` (30_encoding.md R61): `rc <- TableRead(tp) ; tp <- tp + 1`, and the records follow (R91). -/
def execTableCount (count : Byte) (s : State) : Host.Outcome State Fault Refusal :=
  guarded (fun s => .done { advanceTp 1 s with rc := count.toNat, phase := .records }) s

/-- The argument loop of R92 as written: n times TableRead and sendData. -/
def interpretArguments (n : Nat) (s : State) : Progress :=
  match n with
  | 0 => .done s
  | n + 1 => readTable (fun a s => (sendData a s).andThen (interpretArguments n)) s

/-- execRecord() of R92 and R93 as written, byte by byte from the table at tp, with the count-down of R91's loop: each byte is read
when it is needed and sent before the next is read, so a table that ends early raises DecodeError after the bytes before it went
out (R95). -/
def interpretRecord (s : State) : Progress :=
  readTable (fun cmd s =>
    readTable (fun b s =>
      (sendCommand cmd s).andThen fun s =>
      (interpretArguments (argCount b) s).andThen fun s =>
      if delayFlag b then readTable (fun d s => .done (endRecord (delayFor (delayMs d) s))) s
      else .done (endRecord s)) s) s

end Sys2Proof.Machine
end

