-- ==== Sys2Proof/Machine/Flags.lean ====
section
/-! DEFINITION. The engine has no flags register and no operation's arithmetic sets a flag (10_state.md R30, 43_display_surface.md
R128). What it has is the register `status`; its two computed values are here. -/

namespace Sys2Proof.Machine

/-- Whether the inclusive box (x, y)..(x1, y1) and the surface have no pixel in common (43_display_surface.md R112). -/
def boxOutside (p : Params) (x y x1 y1 : Int) : Bool :=
  decide (x ≥ p.width ∨ y ≥ p.height ∨ x1 < 0 ∨ y1 < 0)

/-- The status of a glyph that was drawn (43_display_surface.md R113): Ok when its cell lies in the surface, else ClippedPartial,
which reports that the cell sticks out although nothing was clamped (90_conflicts.md C3). -/
def glyphStatus (p : Params) (x y x1 y1 : Int) : Status :=
  if x ≥ 0 ∧ y ≥ 0 ∧ x1 ≤ (p.width : Int) - 1 ∧ y1 ≤ (p.height : Int) - 1 then .ok else .clippedPartial

/-- The status of an operation that draws the cell at (x, y): OutOfBounds where the cell and the surface have no pixel in common, else
that of the glyph that was drawn (43_display_surface.md R108, R112, R113). -/
def cellStatus (p : Params) (x y : Int) : Status :=
  let x1 := x + p.textWidth - 1
  let y1 := y + p.textHeight - 1
  if boxOutside p x y x1 y1 then .outOfBounds else glyphStatus p x y x1 y1

/-- The status of a fill that was sent (43_display_surface.md R116). -/
def fillStatus (clipped : Bool) : Status := if clipped then .clippedPartial else .ok

end Sys2Proof.Machine
end

