-- ==== Sys2Proof/Machine/FontRasterizer.lean ====
section
/-! DEFINITION. The Font Rasterizer (42_font_rasterizer.md R97 to R104): pure functions of their operands and FONT. -/

namespace Sys2Proof.Machine

/-- glyphIndex(code) (R97): `code - 32` in integers (CODE_OFFSET); an index outside 0..97 (GLYPH_MAX) becomes 97. -/
def glyphIndex (code : Byte) : Nat :=
  let g : Int := (code.toNat : Int) - 32
  if g < 0 ∨ g > 97 then 97 else g.toNat

/-- Column i of a rasterized glyph (R98, R99): the font's byte in the drawable columns 0..TEXTWIDTH-2, 0 in the spacing column. -/
def glyphColumn (p : Params) (code : Byte) (i : Nat) : Byte :=
  if i + 2 ≤ p.textWidth then fontRead p (glyphIndex code) i else 0#8

/-- rasterizeGlyph(code) (R98): the TEXTWIDTH column bytes of the cell. -/
def rasterizeGlyph (p : Params) (code : Byte) : List Byte :=
  (List.range p.textWidth).map (glyphColumn p code)

/-- The sample of cell column i and row j (R100, R104): foreground when i is a drawable column whose bit j is set. -/
def glyphSample (p : Params) (cols : List Byte) (fg bg : Colour) (i j : Nat) : Colour :=
  if i + 2 ≤ p.textWidth ∧ ((cols[i]?).getD 0#8).getLsbD j = true then fg else bg

/-- expandGlyph(col, fg, bg) (R100, R101): TEXTWIDTH * TEXTHEIGHT samples, column by column, rows in order in each column. -/
def expandGlyph (p : Params) (cols : List Byte) (fg bg : Colour) : List Colour :=
  (List.range p.textWidth).flatMap fun i => (List.range p.textHeight).map fun j => glyphSample p cols fg bg i j

end Sys2Proof.Machine
end

