-- ==== Sys2Proof/Machine/Drawing.lean ====
section
/-! DEFINITION. DRAWCHAR and FILLRECT (43_display_surface.md R112 to R116), with what WRITE and INIT perform of them. -/

namespace Sys2Proof.Machine

/-- The blit of R113 but for its status: the window is the whole cell, unclipped; all samples go out in one burst. -/
def blitGlyph (x y : Int) (code : Byte) (fg bg : Colour) (s : State) : Progress :=
  let x1 := x + s.params.textWidth - 1
  let y1 := y + s.params.textHeight - 1
  if inCoord x1 && inCoord y1 then
    (setAddressingWindow x y x1 y1 s).andThen fun s =>
    (burstSamples (expandGlyph s.params (rasterizeGlyph s.params code) fg bg) s).andThen fun s =>
    .done (closeBurst s)
  else raise .coordOverflow s

/-- What DRAWCHAR draws (R112, R113): nothing, without any event, for a cell fully outside the surface, else the blit. The status line
is the caller's: in DRAWCHAR it is the operation's end, in WRITE it is not (10_state.md R30). -/
def drawCell (x y : Int) (code : Byte) (fg bg : Colour) (s : State) : Progress :=
  if boxOutside s.params x y (x + s.params.textWidth - 1) (y + s.params.textHeight - 1) then .done s
  else blitGlyph x y code fg bg s

/-- The pseudocode of DRAWCHAR (R112, R113). -/
def drawCharBody (x y : Int) (code : Byte) (fg bg : Colour) (s : State) : Progress :=
  (drawCell x y code fg bg s).andThen fun t => .done (setStatus (cellStatus s.params x y) t)

/-- DRAWCHAR (R112, R113). -/
def execDrawChar (x y : Word) (code : Byte) (fg bg : Colour) (s : State) : Host.Outcome State Fault Refusal :=
  guarded (drawCharBody (coord x) (coord y) code fg bg) s

/-- Whether an inclusive extent e from origin o passes the last pixel of a side of length n (R115). -/
def clipsAt (n : Nat) (o e : Int) : Bool := decide (o + e > (n : Int) - 1)

/-- The extent after the clamp of R115. -/
def clampAt (n : Nat) (o e : Int) : Int := if clipsAt n o e then (n : Int) - 1 - o else e

/-- The fill of R116: window, one burst of solid samples, status. -/
def sendFill (x y we he : Int) (clipped : Bool) (colour : Colour) (s : State) : Progress :=
  (setAddressingWindow x y (x + we) (y + he) s).andThen fun s =>
  (burstSamples (List.replicate ((we + 1) * (he + 1)).toNat colour) s).andThen fun s =>
  .done (setStatus (fillStatus clipped) (closeBurst s))

/-- The body of FILLRECT (R114 to R116). The height is clamped against WIDTH, the preserved defect of R115. -/
def fillRectBody (x y w h : Int) (colour : Colour) (s : State) : Progress :=
  if x < 0 ∨ y < 0 ∨ x ≥ s.params.width ∨ y ≥ s.params.height then .done (setStatus .outOfBounds s)
  else if w < 1 ∨ h < 1 then raise .operandUnspecified s
  else
    let we := clampAt s.params.width x (w - 1)
    let he := clampAt s.params.width y (h - 1)
    let clipped := clipsAt s.params.width x (w - 1) || clipsAt s.params.width y (h - 1)
    if he < 0 then raise .operandUnspecified s
    else sendFill x y we he clipped colour s

/-- FILLRECT (R114 to R116). -/
def execFillRect (x y w h : Word) (colour : Colour) (s : State) : Host.Outcome State Fault Refusal :=
  guarded (fillRectBody (coord x) (coord y) (coord w) (coord h) colour) s

end Sys2Proof.Machine
end

