-- ==== Sys2Proof/Machine/BringUp.lean ====
section
/-! DEFINITION. INIT (43_display_surface.md R117, R118). Its table replay (41_command_protocol.md R91) takes one step for the count
and one for each record, so INIT is in two parts: what comes before the replay, and the closing fill (log entry 7). -/

namespace Sys2Proof.Machine

/-- One step of the panel reset pulse: the level and its 10 ms, RESET_STEP_MS (R117). -/
def pulseStep (level : Bool) (s : State) : State := delayFor 10 (driveLine .rst level s)

/-- INIT up to its table replay (R117): directions, `initialised`, the high-low-high pulse; then `tp <- 0` (R91) and the replay is in
progress. It touches neither the bus nor the five surface registers. -/
def initBody (s : State) : Progress :=
  let s := configureOutput .rst (configureOutput .dc (configureOutput .cs s))
  let s := { s with initialised := true }
  let s := pulseStep true (pulseStep false (pulseStep true s))
  .done { s with tp := 0, phase := .header }

/-- INIT (R117). -/
def execInit (s : State) : Host.Outcome State Fault Refusal := guarded initBody s

/-- INIT after its table replay (R117): the body of FILLRECT(0, 0, WIDTH, HEIGHT, backgroundColour); then INIT returns. -/
def finishInit (s : State) : Progress :=
  (fillRectBody 0 0 s.params.width s.params.height s.backgroundColour s).andThen fun s =>
  .done { s with phase := .idle }

end Sys2Proof.Machine
end

