-- ==== Sys2Proof/Machine/Text.lean ====
section
/-! DEFINITION. WRITE, the text state machine (43_display_surface.md R105 to R111). -/

namespace Sys2Proof.Machine

/-- Line feed (R106): both register writes, nothing drawn; that cursorY reaches HEIGHT skips nothing (90_conflicts.md C5). -/
def lineFeed (s : State) : Progress :=
  (putCoord (coord s.cursorY + s.params.textHeight) setCursorY (setCursorX 0 s)).andThen fun s =>
  .done (setStatus .ok s)

/-- The wrap of R109, whose test is strict in both directions; past the bottom cursorY becomes 1, the preserved quirk of R110. -/
def wrapLine (s : State) : Progress :=
  if s.wrap = true ∧ coord s.cursorX > (s.params.width : Int) - s.params.textWidth then
    (putCoord (coord s.cursorY + s.params.textHeight) setCursorY (setCursorX 0 s)).andThen fun s =>
    if coord s.cursorY > s.params.height then .done (setCursorY 1 s) else .done s
  else .done s

/-- Any other code (R108): the glyph at the cursor and its status line, the advance (also when nothing was drawn), the wrap test. An
advance or wrap that faults leaves what the line wrote (60_exceptions.md R149) beside the outcome of the last COMPLETED operation
(10_state.md R30); the end of the WRITE makes it the outcome (log entry 11). -/
def printable (code : Byte) (s : State) : Progress :=
  (drawCell (coord s.cursorX) (coord s.cursorY) code s.textColour s.backgroundColour s).andThen fun t =>
  let t := stageStatus (cellStatus s.params (coord s.cursorX) (coord s.cursorY)) t
  (putCoord (coord t.cursorX + t.params.textWidth) setCursorX t).andThen fun t =>
  (wrapLine t).andThen fun t =>
  .done (commitStatus t)

/-- The body of WRITE (R105): line feed 0x0A, carriage return 0x0D (30_encoding.md R76), any other code; then the response 1 (R111). -/
def writeBody (code : Byte) (s : State) : Progress :=
  (if code.toNat = 10 then lineFeed s
   else if code.toNat = 13 then .done (setStatus .ok s)
   else printable code s).andThen fun s => .done (respond 1 s)

/-- WRITE (R105). -/
def execWrite (code : Byte) (s : State) : Host.Outcome State Fault Refusal := guarded (writeBody code) s

end Sys2Proof.Machine
end

