-- ==== Sys2Proof/Machine/Dispatch.lean ====
section
/-! DEFINITION. The meaning of each instruction, one arm per constructor. -/

namespace Sys2Proof.Machine

def exec (i : Instr) (s : State) : Host.Outcome State Fault Refusal :=
  match i with
  | .init => Sys2Proof.Machine.execInit s
  | .write code => Sys2Proof.Machine.execWrite code s
  | .fillRect x y w h colour => Sys2Proof.Machine.execFillRect x y w h colour s
  | .drawChar x y code fg bg => Sys2Proof.Machine.execDrawChar x y code fg bg s
  | .setCursor col row => Sys2Proof.Machine.execSetCursor col row s
  | .setTextColour v => Sys2Proof.Machine.execSetTextColour v s
  | .getTextColour => Sys2Proof.Machine.execGetTextColour s
  | .setBgColour v => Sys2Proof.Machine.execSetBgColour v s
  | .getBgColour => Sys2Proof.Machine.execGetBgColour s
  | .setTextWrap b => Sys2Proof.Machine.execSetTextWrap b s
  | .getCursorX => Sys2Proof.Machine.execGetCursorX s
  | .getCursorY => Sys2Proof.Machine.execGetCursorY s
  | .record cmd args => Sys2Proof.Machine.execRecord cmd args s
  | .recordDelay cmd args delay => Sys2Proof.Machine.execRecordDelay cmd args delay s
  | .tableCount count => Sys2Proof.Machine.execTableCount count s

end Sys2Proof.Machine
end

