-- ==== Sys2Proof/Machine/Fetch.lean ====
section
/-! DEFINITION. Where the next instruction comes from, and one whole step: the host port between operations, the init table at tp
inside INIT. -/

namespace Sys2Proof.Machine

/-- The engine takes the next request off the host port (20_memory.md R44). -/
def takeRequest (s : State) : State := { s with host := s.host.tail }

/-- Serve one request (00_scope.md R12): a frame that spells an operation is executed; a reserved opcode only sets the status
IllegalOp (30_encoding.md R71); a frame the spec does not define is refused by name (log entry 10). -/
def serveFrame (frame : Frame) (s : State) : Host.Outcome State Fault Refusal :=
  match decodeFrame frame with
  | .ok i => exec i s
  | .error (.reservedOpcode _) => .next (setStatus .illegalOp s)
  | .error _ => .refused .malformedFrame

/-- Between operations: the next request if there is one, else the engine stays idle (70_reset_and_hazards.md R150). -/
def serveHost (s : State) : Host.Outcome State Fault Refusal :=
  match s.host with
  | [] => .next s
  | frame :: _ => serveFrame frame (takeRequest s)

/-- In INIT: the table's record count at tp; an empty table raises DecodeError (41_command_protocol.md R91, R95). -/
def fetchHeader (s : State) : Host.Outcome State Fault Refusal :=
  match decodeHeader (s.params.initTable.drop s.tp) with
  | .ok (i, _) => exec i s
  | .error _ => .next (raise (.decodeError s.tp) s).state

/-- In INIT: while rc > 0 the record at tp, then the closing fill (41_command_protocol.md R91, 43_display_surface.md R117). A record
the table ends in the middle of is no instruction; the byte-wise interpreter runs up to the read that raises DecodeError (R95). -/
def fetchRecord (s : State) : Host.Outcome State Fault Refusal :=
  if s.rc = 0 then .next (finishInit s).state
  else match decodeRecord (s.params.initTable.drop s.tp) with
    | .ok (i, _) => exec i s
    | .error _ => .next (interpretRecord s).state

/-- One step of the engine. A stuck engine has none (60_exceptions.md R148); a faulted engine takes the next request and drops it
without effect or response (R131). -/
def cycle (s : State) : Host.Outcome State Fault Refusal :=
  if s.stuck.isSome then .fault .busStalled
  else if s.fault.isSome then .next (takeRequest s)
  else match s.phase with
    | .idle => serveHost s
    | .header => fetchHeader s
    | .records => fetchRecord s

/-- Place a host frame where the next step reads it: on the host port, between operations. -/
def placeFrame (frame : Frame) (s : State) : State := { s with phase := .idle, host := frame :: s.host }

/-- Place a whole table and a position in it where the next step reads: inside INIT's replay, where the lines are outputs and the
engine is initialised (43_display_surface.md R117). -/
def placeTable (table : List Byte) (phase : Phase) (tp rc : Nat) (s : State) : State :=
  { s with
    params := { s.params with initTable := table }, phase := phase, tp := tp, rc := rc
    csOut := true, dcOut := true, rstOut := true, initialised := true }

/-- Place the instruction of a word of spec/opcode_table.json where the next step fetches. A record goes into the one-record table
`01 record`, at tp = 1 with rc = 1, and a record count into byte 0 with tp = 0 (log entry 8). -/
def placeWord (s : State) (nbits w : Nat) : State :=
  match wordStream nbits w with
  | .host => placeFrame (wordBytes nbits w) s
  | .header => placeTable (wordBytes nbits w) .header 0 s.rc s
  | .records => placeTable (0x01#8 :: wordBytes nbits w) .records 1 1 s

end Sys2Proof.Machine
end

