-- ==== Sys2Proof/Machine/Step.lean ====
section
/-! DEFINITION. One step of the machine, and the host's way to place one instruction where it is fetched. -/

namespace Sys2Proof.Machine

/-- One step: one host operation, or inside INIT one table instruction or the closing fill. -/
def step (s : State) : Host.Outcome State Fault Refusal := Sys2Proof.Machine.cycle s

/-- s with the instruction of the table word w where the next step fetches its instruction. -/
def State.withFetchWord (s : State) (nbits w : Nat) : State := Sys2Proof.Machine.placeWord s nbits w

end Sys2Proof.Machine
end

