-- ==== Sys2Proof/Machine/Observe.lean ====
section
/-! DEFINITION. What the outside sees of the event history: the logical stream the panel receives (10_state.md R32) and the responses
the host receives (30_encoding.md R72). Projections only: no operation of the engine reads them. -/

namespace Sys2Proof.Machine

/-- The alphabet of the logical stream (10_state.md R32). -/
inductive Logical where
  /-- `Cmd(b)`: a byte sent with CS low and DC low. -/
  | cmd (b : Byte)
  /-- `Data(b)`: a byte sent with CS low and DC high. -/
  | data (b : Byte)
  /-- `Delay(ms)`. -/
  | delay (ms : Nat)
  /-- `Rst(v)`. -/
  | rst (v : Bool)
  deriving DecidableEq, Repr

/-- The one pass of 10_state.md R32 from given levels of CS and DC. -/
def logicalFrom (cs dc : Bool) (es : List Event) : List Logical :=
  match es with
  | [] => []
  | .dir _ :: es => logicalFrom cs dc es
  | .line .cs v :: es => logicalFrom v dc es
  | .line .dc v :: es => logicalFrom cs v es
  | .line .rst v :: es => .rst v :: logicalFrom cs dc es
  | .byte b :: es =>
    if cs then logicalFrom cs dc es
    else if dc then .data b :: logicalFrom cs dc es
    else .cmd b :: logicalFrom cs dc es
  | .delay ms :: es => .delay ms :: logicalFrom cs dc es
  | .ret _ :: es => logicalFrom cs dc es

/-- The logical stream L2(hist) (10_state.md R32). The pass starts with CS high: before the first `Line(CS, _)` there is no `Byte`
(40_bus_transport.md R85), so the starting levels are never used (log entry 15). -/
def logicalStream (hist : List Event) : List Logical := logicalFrom true true hist

/-- The responses the host has received, in order (20_memory.md R44). -/
def responses (hist : List Event) : List Word :=
  match hist with
  | [] => []
  | .ret v :: es => v :: responses es
  | .dir _ :: es | .line _ _ :: es | .byte _ :: es | .delay _ :: es => responses es

/-- A getter's response on the frame transport, high byte first (30_encoding.md R72). -/
def responseFrame (v : Word) : List Byte := [hi8 v, lo8 v]

end Sys2Proof.Machine
end

