-- ==== Sys2Proof/Machine/Panel.lean ====
section
/-! DEFINITION. The optional reference panel of 20_memory.md R52: a sink of the logical stream outside the engine, for claims about
pixels. The engine never reads it. Where R52 calls its behaviour undefined, it answers none and a claim says nothing. What it does
where R52 is silent is the model's choice (DESIGN CHOICE, log entry 17). -/

namespace Sys2Proof.Machine

/-- What the panel does with the next data byte (20_memory.md R52). -/
inductive PanelInput where
  /-- The argument of a command the panel's window logic does not know. -/
  | ignored
  /-- Bytes of the column range (which carries y) received so far. -/
  | columns (got : List Byte)
  /-- Bytes of the row range (which carries x) received so far. -/
  | rows (got : List Byte)
  /-- The high byte of a sample when half of it has arrived. -/
  | pixels (half : Option Byte)
  deriving DecidableEq, Repr

/-- The reference panel (20_memory.md R52). The pixel memory is a list of address and colour pairs with strictly rising addresses;
pixel (x, y) of the surface has address `x * height + y`, and an unlisted pixel has not been written. -/
structure Panel where
  width : Nat
  height : Nat
  cmdColset : Byte
  cmdRowset : Byte
  cmdRamwr : Byte
  input : PanelInput
  /-- y0 and y1, once a column range has arrived. -/
  ys : Option (Nat × Nat)
  /-- x0 and x1, once a row range has arrived. -/
  xs : Option (Nat × Nat)
  /-- The write position k. -/
  pos : Nat
  gram : List (Nat × Colour)
  deriving DecidableEq, Repr

/-- A panel that has received nothing, on the far side of an engine with these parameters. DESIGN CHOICE (log entry 17), where R52 is
silent: it has no window and no written pixel yet, and a data byte that reaches it before any command is ignored. -/
def Panel.blank (p : Params) : Panel where
  width := p.width
  height := p.height
  cmdColset := p.cmdColset
  cmdRowset := p.cmdRowset
  cmdRamwr := p.cmdRamwr
  input := .ignored
  ys := none
  xs := none
  pos := 0
  gram := []

/-- Write one address of the pixel memory, keeping the addresses strictly rising. -/
def gramWrite (a : Nat) (c : Colour) (m : List (Nat × Colour)) : List (Nat × Colour) :=
  match m with
  | [] => [(a, c)]
  | (a', c') :: m =>
    if a < a' then (a, c) :: (a', c') :: m
    else if a = a' then (a, c) :: m
    else (a', c') :: gramWrite a c m

/-- The colour at an address, none where nothing has been written. -/
def gramRead (a : Nat) (m : List (Nat × Colour)) : Option Colour :=
  match m with
  | [] => none
  | (a', c) :: m => if a = a' then some c else gramRead a m

/-- The canonical form of the pixel memory: strictly rising addresses. -/
abbrev gramWf (m : List (Nat × Colour)) : Prop := List.Pairwise (fun a b => a.1 < b.1) m

/-- The colour of pixel (x, y), none where nothing has been written. DESIGN CHOICE (log entry 17), where R52 is silent: a pair (x, y)
outside the surface names no pixel, so the answer is none there too. -/
def Panel.pixel (p : Panel) (x y : Nat) : Option Colour :=
  if x < p.width ∧ y < p.height then gramRead (x * p.height + y) p.gram else none

/-- A coordinate pair, each high byte first, of a range of the given length; none where R52 leaves it undefined: a coordinate
outside the surface, or the last before the first. -/
def coordPair (length : Nat) (a b c d : Byte) : Option (Nat × Nat) :=
  let lo := (joinBytes a b).toNat
  let hi := (joinBytes c d).toNat
  if lo ≤ hi ∧ hi < length then some (lo, hi) else none

/-- One whole sample arrives (20_memory.md R52): it lands at `(x0 + k div n, y0 + k mod n)` with `n = y1 - y0 + 1`; undefined without
a window, or past its last pixel. -/
def Panel.takeSample (p : Panel) (v : Colour) : Option Panel :=
  match p.xs, p.ys with
  | some (x0, x1), some (y0, y1) =>
    let n := y1 - y0 + 1
    if p.pos < (x1 - x0 + 1) * n then
      some { p with
        input := .pixels none
        pos := p.pos + 1
        gram := gramWrite ((x0 + p.pos / n) * p.height + (y0 + p.pos % n)) v p.gram }
    else none
  | _, _ => none

/-- One data byte arrives. DESIGN CHOICE (log entry 17), where R52 is silent: a data byte after the fourth of a range, or after a
command the window logic does not know, is ignored. -/
def Panel.takeData (p : Panel) (b : Byte) : Option Panel :=
  match p.input with
  | .ignored => some p
  | .columns [a0, a1, a2] => (coordPair p.height a0 a1 a2 b).map fun r => { p with input := .ignored, ys := some r }
  | .columns got => some { p with input := .columns (got ++ [b]) }
  | .rows [a0, a1, a2] => (coordPair p.width a0 a1 a2 b).map fun r => { p with input := .ignored, xs := some r }
  | .rows got => some { p with input := .rows (got ++ [b]) }
  | .pixels none => some { p with input := .pixels (some b) }
  | .pixels (some h) => p.takeSample (joinBytes h b)

/-- One command byte arrives. DESIGN CHOICE (log entry 17), where R52 is silent: a command drops what has been received of a range or
of a sample before it, and where two of the three command parameters are equal the byte counts as CMD_COLSET before CMD_ROWSET before
CMD_RAMWR. -/
def Panel.takeCommand (p : Panel) (b : Byte) : Panel :=
  if b = p.cmdColset then { p with input := .columns [] }
  else if b = p.cmdRowset then { p with input := .rows [] }
  else if b = p.cmdRamwr then { p with input := .pixels none, pos := 0 }
  else { p with input := .ignored }

/-- One entry of the logical stream arrives; a delay or a reset level changes nothing (DESIGN CHOICE, log entry 17: R52 does not name
them). -/
def Panel.take (p : Panel) (l : Logical) : Option Panel :=
  match l with
  | .cmd b => some (p.takeCommand b)
  | .data b => p.takeData b
  | .delay _ => some p
  | .rst _ => some p

/-- The panel after a stretch of the logical stream, none where R52 leaves its behaviour undefined. -/
def Panel.takeAll (p : Panel) (ls : List Logical) : Option Panel :=
  match ls with
  | [] => some p
  | l :: ls => match p.take l with
    | some p => p.takeAll ls
    | none => none

end Sys2Proof.Machine
end

