-- ==== Sys2Proof/Safety.lean ====
section
/-! DEFINITION. The terms claims are stated in: when the engine can act, how many bytes the bus peripheral will complete, the events a
piece of the protocol appends, and the invariants every step keeps. -/

namespace Sys2Proof.Machine

/-- The engine can execute: it is not stuck (60_exceptions.md R148) and not faulted (R131). -/
abbrev Ready (s : State) : Prop := s.stuck = none ∧ s.fault = none

/-- The bus peripheral completes at least the next k bytes (the fairness premise of 92 D33, for k bytes). -/
def busCompletes (k : Nat) (o : Option Nat) : Bool :=
  match o with
  | none => true
  | some n => decide (k ≤ n)

/-- The oracle after k completed bytes. -/
def busSpend (k : Nat) (o : Option Nat) : Option Nat :=
  match o with
  | none => none
  | some n => some (n - k)

/-- Apply f to the next state of an outcome. -/
def mapNext (f : State → State) (o : Host.Outcome State Fault Refusal) : Host.Outcome State Fault Refusal :=
  match o with
  | .next s => .next (f s)
  | .fault r => .fault r
  | .refused r => .refused r

/-- k steps, stopping at the first fault or refusal. -/
def run (k : Nat) (s : State) : Host.Outcome State Fault Refusal :=
  match k with
  | 0 => .next s
  | k + 1 =>
    match step s with
    | .next t => run k t
    | .fault r => .fault r
    | .refused r => .refused r

/-- A command transaction (30_encoding.md R73). -/
def commandEvents (b : Byte) : List Event := [.line .dc false, .line .cs false, .byte b, .line .cs true]

/-- A data transaction (30_encoding.md R73). -/
def dataEvents (b : Byte) : List Event := [.line .dc true, .line .cs false, .byte b, .line .cs true]

/-- A coordinate sent as arguments: two data transactions, high byte first (30_encoding.md R74). -/
def wordEvents (c : Int) : List Event := dataEvents (hi8 (u16 c)) ++ dataEvents (lo8 (u16 c))

/-- The events of setAddressingWindow (41_command_protocol.md R88). -/
def windowEvents (p : Params) (x0 y0 x1 y1 : Int) : List Event :=
  commandEvents p.cmdColset ++ wordEvents y0 ++ wordEvents y1 ++ commandEvents p.cmdRowset ++ wordEvents x0 ++ wordEvents x1
    ++ commandEvents p.cmdRamwr ++ [.line .dc true, .line .cs false]

/-- The bytes of a run of samples, high byte first (40_bus_transport.md R82). -/
def sampleEvents (vs : List Colour) : List Event := vs.flatMap fun v => [.byte (hi8 v), .byte (lo8 v)]

/-- A whole drawing: window, samples in one burst, chip-select released. -/
def drawEvents (p : Params) (x0 y0 x1 y1 : Int) (vs : List Colour) : List Event :=
  windowEvents p x0 y0 x1 y1 ++ sampleEvents vs ++ [.line .cs true]

/-- The logical stream of an addressing window, the eleven bytes of 30_encoding.md R75. -/
def windowStream (p : Params) (x0 y0 x1 y1 : Int) : List Logical :=
  [.cmd p.cmdColset, .data (hi8 (u16 y0)), .data (lo8 (u16 y0)), .data (hi8 (u16 y1)), .data (lo8 (u16 y1)),
   .cmd p.cmdRowset, .data (hi8 (u16 x0)), .data (lo8 (u16 x0)), .data (hi8 (u16 x1)), .data (lo8 (u16 x1)), .cmd p.cmdRamwr]

/-- The logical stream of a run of samples (40_bus_transport.md R82). -/
def sampleStream (vs : List Colour) : List Logical := vs.flatMap fun v => [.data (hi8 v), .data (lo8 v)]

/-- The samples of a glyph cell (42_font_rasterizer.md R98, R100). -/
def glyphSamples (p : Params) (code : Byte) (fg bg : Colour) : List Colour := expandGlyph p (rasterizeGlyph p code) fg bg

/-- The events of a record (41_command_protocol.md R92, R93); nothing for any other instruction. -/
def recordEvents (i : Instr) : List Event :=
  match i with
  | .record cmd args => commandEvents cmd ++ args.flatMap dataEvents
  | .recordDelay cmd args d => commandEvents cmd ++ args.flatMap dataEvents ++ [.delay (delayMs d)]
  | .init | .write _ | .fillRect _ _ _ _ _ | .drawChar _ _ _ _ _ | .setCursor _ _ | .setTextColour _ | .getTextColour
  | .setBgColour _ | .getBgColour | .setTextWrap _ | .getCursorX | .getCursorY | .tableCount _ => []

/-- How many bytes a record sends: its command and its arguments. -/
def recordBytes (i : Instr) : Nat :=
  match i with
  | .record _ args => 1 + args.length
  | .recordDelay _ args _ => 1 + args.length
  | .init | .write _ | .fillRect _ _ _ _ _ | .drawChar _ _ _ _ _ | .setCursor _ _ | .setTextColour _ | .getTextColour
  | .setBgColour _ | .getBgColour | .setTextWrap _ | .getCursorX | .getCursorY | .tableCount _ => 0

/-- The level DC has after a record (41_command_protocol.md R96): high if it had arguments, else low. -/
def recordDc (args : List Byte) : Bool := !args.isEmpty

/-- DC after a run of records, from the level before it (41_command_protocol.md R96). -/
def recordsDc (dc : Bool) (is : List Instr) : Bool :=
  match is with
  | [] => dc
  | .record _ args :: is => recordsDc (recordDc args) is
  | .recordDelay _ args _ :: is => recordsDc (recordDc args) is
  | _ :: is => recordsDc dc is

/-- INIT's events before the table replay (43_display_surface.md R117). -/
def bringUpEvents : List Event :=
  [.dir .cs, .dir .dc, .dir .rst, .line .rst true, .delay 10, .line .rst false, .delay 10, .line .rst true, .delay 10]

/-- What a reader of the history knows of the lines: the last level of CS and DC, and whether the last event drove DC. -/
structure LineView where
  cs : Option Bool
  dc : Option Bool
  afterDc : Bool
  deriving DecidableEq, Repr

/-- Before any event. -/
def LineView.start : LineView := ⟨none, none, false⟩

/-- After one more event. -/
def LineView.after (v : LineView) (e : Event) : LineView :=
  match e with
  | .line .cs b => ⟨some b, v.dc, false⟩
  | .line .dc b => ⟨v.cs, some b, true⟩
  | .line .rst _ | .dir _ | .byte _ | .delay _ | .ret _ => ⟨v.cs, v.dc, false⟩

/-- After a stretch of events. -/
def LineView.afterAll (v : LineView) (es : List Event) : LineView := es.foldl LineView.after v

/-- Whether an event may come next (40_bus_transport.md R85): a byte only while CS is low; CS goes low only from outside a
transaction and directly after a `Line(DC, _)`; inside a transaction nothing but bytes and the release of CS. -/
def LineView.allows (v : LineView) (e : Event) : Bool :=
  match e with
  | .byte _ => decide (v.cs = some false)
  | .line .cs false => v.afterDc && decide (v.cs ≠ some false)
  | .line .cs true => true
  | .line .dc _ | .line .rst _ | .dir _ | .delay _ | .ret _ => decide (v.cs ≠ some false)

/-- The chip-select discipline of 40_bus_transport.md R85 over a stretch of events. -/
def disciplined (v : LineView) (es : List Event) : Bool :=
  match es with
  | [] => true
  | e :: es => v.allows e && disciplined (v.after e) es

/-- The bus invariant (40_bus_transport.md R85, 70_reset_and_hazards.md R156): the history keeps the discipline, the level registers
hold the last levels driven, and no transaction is open while the engine can act. -/
abbrev BusInv (s : State) : Prop :=
  disciplined .start s.hist = true
    ∧ (∀ b, (LineView.start.afterAll s.hist).cs = some b → s.cs = b)
    ∧ (∀ b, (LineView.start.afterAll s.hist).dc = some b → s.dc = b)
    ∧ (s.stuck = none → s.fault = none → (LineView.start.afterAll s.hist).cs ≠ some false)

/-- Whether an event is a host response. -/
def Event.isRet (e : Event) : Bool :=
  match e with
  | .ret _ => true
  | .dir _ | .line _ _ | .byte _ | .delay _ => false

/-- The bring-up invariant (10_state.md R23, R24, R28, 60_exceptions.md R131, R146): the lines are outputs exactly when INIT has run;
before it the panel and the lines have seen nothing and no table is being replayed; the table pointer stays inside the table and
the record counter is a byte; a faulted engine is inside no operation; and a status written by an operation that did not end is found
only in a faulted engine. -/
abbrev BringUpInv (s : State) : Prop :=
  (s.csOut = s.initialised ∧ s.dcOut = s.initialised ∧ s.rstOut = s.initialised)
    ∧ (s.initialised = false → s.hist.all Event.isRet = true ∧ s.phase = .idle ∧ s.stuck = none)
    ∧ (s.phase = .header → s.tp = 0)
    ∧ s.tp ≤ s.params.initTable.length
    ∧ s.rc ≤ 255
    ∧ (s.fault ≠ none → s.phase = .idle ∧ s.stuck = none)
    ∧ (s.drawStatus ≠ none → s.fault ≠ none)

/-- The cursor after a printable character at (x, y), the last four rows of the table of 43_display_surface.md R129. -/
def cursorAfter (p : Params) (wrap : Bool) (x y : Int) : Int × Int :=
  if wrap = false ∨ x + p.textWidth ≤ (p.width : Int) - p.textWidth then (x + p.textWidth, y)
  else if y + p.textHeight ≤ p.height then (0, y + p.textHeight)
  else (0, 1)

/-- The sums WRITE forms for a printable character stay coordinates: the advance, and the new line if the wrap fires
(43_display_surface.md R108, R109, R129). -/
abbrev CursorSumsFit (p : Params) (wrap : Bool) (x y : Int) : Prop :=
  x + p.textWidth ≤ 32767
    ∧ (wrap = true → x + p.textWidth > (p.width : Int) - p.textWidth → y + p.textHeight ≤ 32767)

/-- The cell at (x, y) and the surface have no pixel in common (43_display_surface.md R112). -/
abbrev CellOutside (p : Params) (x y : Int) : Prop :=
  x ≥ p.width ∨ y ≥ p.height ∨ x + p.textWidth - 1 < 0 ∨ y + p.textHeight - 1 < 0

/-- The cell at (x, y) lies in the surface. -/
abbrev CellInside (p : Params) (x y : Int) : Prop :=
  0 ≤ x ∧ 0 ≤ y ∧ x + p.textWidth - 1 ≤ (p.width : Int) - 1 ∧ y + p.textHeight - 1 ≤ (p.height : Int) - 1

/-- The last column and row of the cell at (x, y) are coordinates (00_scope.md R9, 43_display_surface.md R113). -/
abbrev CellFits (p : Params) (x y : Int) : Prop := x + p.textWidth - 1 ≤ 32767 ∧ y + p.textHeight - 1 ≤ 32767

/-- How many bytes a glyph takes on the bus (70_reset_and_hazards.md R162). -/
def glyphBytes (p : Params) : Nat := 11 + 2 * (p.textWidth * p.textHeight)

/-- The horizontal condition of 43_display_surface.md R130. -/
abbrev CursorInRow (s : State) : Prop :=
  0 ≤ coord s.cursorX ∧ coord s.cursorX ≤ (s.params.width : Int) - s.params.textWidth

/-- The state without what no operation reads: the line levels and directions (60_exceptions.md R142) and the status
(10_state.md R30), in both its forms. -/
def withoutUnread (s : State) : State :=
  { s with
    cs := false, dc := false, rst := false, csOut := false, dcOut := false, rstOut := false, status := .ok, drawStatus := none }

end Sys2Proof.Machine
end

