-- ==== Sys2Proof/Certificates/Slice0/Obligations.lean ====
section
/-! DEFINITION. What is claimed of the engine, to be proved by others. Each docstring names what the claim formalises; where a
clause rests on a decision the spec marks as its own (92_eei_decisions.md D<n>) or on a log entry, it says so. -/

open Sys2Proof Sys2Proof.Machine

/-! ## Reset -/

/-- Every piece of state after construction (10_state.md section 7), for every parameter and every draw. The cursor at 0 is the
spec's decision D9; tp and rc at 0 are the model's choice (log entry 5). State.reset is one such construction. -/
def Obligations.ResetLeavesTheTabulatedState : Prop :=
  (∀ (p : Params) (cs dc rst : Bool) (o : Option Nat),
    let s := State.construct p cs dc rst o
    s.params = p ∧ s.cursorX = 0 ∧ s.cursorY = 0 ∧ s.textColour = p.resetTextColour ∧ s.backgroundColour = p.resetBgColour
      ∧ s.wrap = p.resetWrap ∧ s.tp = 0 ∧ s.rc = 0 ∧ s.cs = cs ∧ s.dc = dc ∧ s.rst = rst ∧ s.csOut = false ∧ s.dcOut = false
      ∧ s.rstOut = false ∧ s.initialised = false ∧ s.fault = none ∧ s.status = .ok
      ∧ s.drawStatus = none ∧ s.hist = [] ∧ s.phase = .idle
      ∧ s.stuck = none ∧ s.host = [])
  ∧ ∃ (cs dc rst : Bool) (o : Option Nat), State.reset = State.construct Config.built cs dc rst o

/-! ## Encodings -/

/-- Decoding an encoded well-formed instruction gives it back, with every operand at every value, and the bytes after a table
instruction untouched (30_encoding.md sections 1 and 2). -/
def Obligations.DecodeOfEncodeIsTheInstruction : Prop :=
  ∀ (i : Instr) (tail : List Byte), i.wellFormed = true →
    decode i.stream (encode i ++ (if i.stream = .host then [] else tail)) = .ok (i, if i.stream = .host then [] else tail)

/-- The other direction: whatever decodes is well formed, belongs to the stream it was read from, and its encoding and the rest are
exactly the bytes that were read (30_encoding.md sections 1 and 2). -/
def Obligations.EncodeOfDecodeIsTheBytes : Prop :=
  ∀ (st : Stream) (bytes rest : List Byte) (i : Instr), decode st bytes = .ok (i, rest) →
    i.wellFormed = true ∧ i.stream = st ∧ bytes = encode i ++ rest

/-- A well-formed table is its count byte, that many records, and bytes that are never read (30_encoding.md section 1). -/
def Obligations.TableIsCountAndRecords : Prop :=
  ∀ (table : List Byte) (is : List Instr), decodeTable table = .ok is →
    (∀ i ∈ is, i.stream = .records ∧ i.wellFormed = true)
      ∧ ∃ (n : Byte) (trailing : List Byte), n.toNat = is.length ∧ table = n :: (is.flatMap encode ++ trailing)

/-- A few words written out from the spec decode to the instruction they stand for: the frames of INIT and WRITE in the programs P1
and P2, of SETCURSOR in V3 and FILLRECT in V27, the reserved opcode of V35 and the table of V1 (95_test_vectors.md). The frame layout
is the spec's decision D1, the one-byte record count D5, the refusal of the reserved opcode D27. -/
def Obligations.SpecWordsDecode : Prop :=
  decodeFrame [0x00#8] = .ok .init ∧ decodeFrame [0x01#8, 0x41#8] = .ok (.write 0x41#8)
    ∧ decodeFrame [0x04#8, 0x00#8, 0x03#8, 0x00#8, 0x02#8] = .ok (.setCursor 3#16 2#16)
    ∧ decodeFrame [0x02#8, 0x00#8, 0x7E#8, 0x00#8, 0x0A#8, 0x00#8, 0x05#8, 0x00#8, 0x02#8, 0xF8#8, 0x00#8]
      = .ok (.fillRect 126#16 10#16 5#16 2#16 0xF800#16)
    ∧ decodeFrame [0x0C#8] = .error (.reservedOpcode 0x0C#8)
    ∧ decodeTable [0x02#8, 0x11#8, 0x81#8, 0x78#8, 0x78#8, 0x29#8, 0x00#8]
      = .ok [.recordDelay 0x11#8 [0x78#8] 0x78#8, .record 0x29#8 []]

/-- A record is read by its count byte (30_encoding.md R62): the low seven bits are the literal number of argument bytes, not scaled,
biased or sign extended and 0 among them, and the top bit says that a delay byte follows; a record whose bytes run out is none. -/
def Obligations.RecordDecodesByItsCountByte : Prop :=
  ∀ (cmd b : Byte) (rest : List Byte),
    let n := b.toNat % 128
    (b.toNat < 128 → n ≤ rest.length → decodeRecord (cmd :: b :: rest) = .ok (.record cmd (rest.take n), rest.drop n))
    ∧ (∀ (args tail : List Byte) (d : Byte), 128 ≤ b.toNat → args.length = n → rest = args ++ d :: tail →
      decodeRecord (cmd :: b :: rest) = .ok (.recordDelay cmd args d, tail))
    ∧ (rest.length < n + (if 128 ≤ b.toNat then 1 else 0) → decodeRecord (cmd :: b :: rest) = .error .truncatedRecord)

/-! ## A step -/

/-- A step executes the instruction it decodes: between operations the frame at the host port, which is taken off the port; inside
INIT the count or the record the table holds at tp. That each of these is a step of its own is the model's (log entry 7). -/
def Obligations.StepRunsTheDecodedInstruction : Prop :=
  ∀ (i : Instr) (s : State), Ready s →
    (∀ (frame : Frame) (rest : List Frame), s.phase = .idle → s.host = frame :: rest → decodeFrame frame = .ok i →
      step s = exec i { s with host := rest })
    ∧ (∀ (tail : List Byte), s.phase = .header → decodeHeader (s.params.initTable.drop s.tp) = .ok (i, tail) →
      step s = exec i s)
    ∧ (∀ (tail : List Byte), s.phase = .records → s.rc ≠ 0 → decodeRecord (s.params.initTable.drop s.tp) = .ok (i, tail) →
      step s = exec i s)

/-- The host's way to place an instruction: the next step runs it. The engine's state is otherwise the same (log entry 8). -/
def Obligations.PlacedWordIsRunNext : Prop :=
  ∀ (i : Instr) (s : State) (nbits w : Nat), Ready s → decodeTableWord nbits w = some i →
    step (s.withFetchWord nbits w) = exec i (if i.stream = .host then { s with phase := .idle } else s.withFetchWord nbits w)

/-- Between operations without a request the engine stays idle; a reserved opcode 0x0C..0xFF sets the status IllegalOp and nothing
else (30_encoding.md section 2; the spec's decision D27). -/
def Obligations.IdleAndReservedRequests : Prop :=
  ∀ (s : State), Ready s → s.phase = .idle →
    (s.host = [] → step s = .next s)
    ∧ ∀ (op : Byte) (ops : List Byte) (rest : List Frame), s.host = (op :: ops) :: rest → 12 ≤ op.toNat →
      step s = .next { s with host := rest, status := .illegalOp }

/-- The model's own stop (log entry 10): a frame the spec does not define, empty or of the wrong length, is refused by name. -/
def Obligations.UndefinedFrameIsRefused : Prop :=
  ∀ (s : State) (frame : Frame) (rest : List Frame), Ready s → s.phase = .idle → s.host = frame :: rest →
    (frame = [] ∨ ∃ (i : Instr) (ops : List Byte), i.stream = .host ∧ frame = (encode i).take 1 ++ ops
      ∧ frame.length ≠ (encode i).length) →
    step s = .refused .malformedFrame

/-! ## Bus transport -/

/-- BusWrite's outcomes (40_bus_transport.md section on BusWrite; the oracle and the timeout are the spec's decisions D21 and D33,
the fault before INIT is D23). -/
def Obligations.BusWriteEndsInOneOfFourWays : Prop :=
  ∀ (b : Byte) (s : State),
    (s.initialised = false → busWrite b s = .halted { s with fault := some .notInitialised, phase := .idle })
    ∧ (s.initialised = true → s.busLeft ≠ some 0 →
      busWrite b s = .done { s with hist := s.hist ++ [.byte b], busLeft := busSpend 1 s.busLeft })
    ∧ (s.initialised = true → s.busLeft = some 0 → s.params.busTimeout = none →
      busWrite b s = .halted { s with stuck := some b })
    ∧ (s.initialised = true → s.busLeft = some 0 → s.params.busTimeout ≠ none →
      busWrite b s = .halted { s with fault := some (.peripheralTimeout b), phase := .idle })

/-- sendCommand and sendData (40_bus_transport.md R79, R80): DC, then CS low, one byte, CS high, on the logical stream one Cmd or one
Data; if BusWrite does not return, CS stays low; before INIT nothing at all. -/
def Obligations.SingleByteTransactions : Prop :=
  ∀ (b : Byte) (s : State),
    (s.initialised = false → sendCommand b s = raise .notInitialised s ∧ sendData b s = raise .notInitialised s)
    ∧ (s.initialised = true → busCompletes 1 s.busLeft = true →
      sendCommand b s = .done { s with
        dc := false, cs := true, busLeft := busSpend 1 s.busLeft,
        hist := s.hist ++ [.line .dc false, .line .cs false, .byte b, .line .cs true] }
      ∧ sendData b s = .done { s with
        dc := true, cs := true, busLeft := busSpend 1 s.busLeft,
        hist := s.hist ++ [.line .dc true, .line .cs false, .byte b, .line .cs true] })
    ∧ (s.initialised = true → busCompletes 1 s.busLeft = false →
      sendCommand b s = busWrite b { s with dc := false, cs := false, hist := s.hist ++ [.line .dc false, .line .cs false] }
      ∧ sendData b s = busWrite b { s with dc := true, cs := false, hist := s.hist ++ [.line .dc true, .line .cs false] })
    ∧ ∀ hist,
      logicalStream (hist ++ [.line .dc false, .line .cs false, .byte b, .line .cs true]) = logicalStream hist ++ [.cmd b]
      ∧ logicalStream (hist ++ [.line .dc true, .line .cs false, .byte b, .line .cs true]) = logicalStream hist ++ [.data b]

/-- burstSample and closeBurst (40_bus_transport.md R82, R83): two bytes, high byte first, no line activity, on the logical stream of
an open burst two Data; a byte that does not complete leaves none or half of the sample sent and CS as it is; then CS alone is raised. -/
def Obligations.BurstSampleIsTwoBytesHighFirst : Prop :=
  ∀ (v : Colour) (s : State), s.initialised = true →
    (busCompletes 2 s.busLeft = true → burstSample v s = .done { s with
      hist := s.hist ++ [.byte (hi8 v), .byte (lo8 v)], busLeft := busSpend 2 s.busLeft })
    ∧ (s.busLeft = some 1 → burstSample v s = busWrite (lo8 v) { s with
      hist := s.hist ++ [.byte (hi8 v)], busLeft := some 0 })
    ∧ (s.busLeft = some 0 → burstSample v s = busWrite (hi8 v) s)
    ∧ logicalFrom false true [.byte (hi8 v), .byte (lo8 v)] = [.data (hi8 v), .data (lo8 v)]
    ∧ closeBurst s = { s with cs := true, hist := s.hist ++ [.line .cs true] }

/-! ## Command protocol -/

/-- setAddressingWindow (41_command_protocol.md section 1): y on the column command, issued first, x on the row command, each
coordinate high byte first, then memory write, and the burst is open; eleven bytes and 35 line events; on the logical stream the
eleven bytes follow whatever came before. One data transaction per argument byte is the spec's decision D13, DC before CS at the
burst's opening D14. -/
def Obligations.WindowSendsColumnThenRowSwapped : Prop :=
  ∀ (x0 y0 x1 y1 : Int) (s : State), s.initialised = true → busCompletes 11 s.busLeft = true →
    let tx (dc : Bool) (b : Byte) : List Event := [.line .dc dc, .line .cs false, .byte b, .line .cs true]
    let word (c : Int) : List Event := tx true (hi8 (u16 c)) ++ tx true (lo8 (u16 c))
    let es := tx false s.params.cmdColset ++ word y0 ++ word y1 ++ tx false s.params.cmdRowset ++ word x0 ++ word x1
      ++ tx false s.params.cmdRamwr ++ [.line .dc true, .line .cs false]
    setAddressingWindow x0 y0 x1 y1 s = .done { s with
      cs := false, dc := true, hist := s.hist ++ es, busLeft := busSpend 11 s.busLeft }
    ∧ es.countP (fun e => match e with | .byte _ => true | _ => false) = 11
    ∧ es.countP (fun e => match e with | .line _ _ => true | _ => false) = 35
    ∧ ∀ hist, logicalStream (hist ++ es) = logicalStream hist ++ windowStream s.params x0 y0 x1 y1

/-- What the panel receives of a whole drawing: the eleven window bytes, then two data bytes a sample, whatever the history before
(10_state.md section 6, 30_encoding.md section 3). -/
def Obligations.LogicalStreamOfADrawing : Prop :=
  ∀ (hist : List Event) (p : Params) (x0 y0 x1 y1 : Int) (vs : List Colour),
    logicalStream (hist ++ drawEvents p x0 y0 x1 y1 vs)
      = logicalStream hist ++ windowStream p x0 y0 x1 y1 ++ vs.flatMap (fun v => [.data (hi8 v), .data (lo8 v)])

/-- `.count` (30_encoding.md section 1, 41_command_protocol.md section 2): rc takes the count, tp moves past it, the records follow.
The one-byte width is the spec's decision D5. -/
def Obligations.TableCountLoadsTheCounter : Prop :=
  ∀ (n : Byte) (s : State), Ready s →
    exec (.tableCount n) s = .next { s with rc := n.toNat, tp := s.tp + 1, phase := .records }

/-- REC (41_command_protocol.md section 2): the command, then each argument as data, tp past the record, one record fewer. One
transaction an argument byte is the spec's decision D13. -/
def Obligations.RecordSendsCommandThenArguments : Prop :=
  ∀ (cmd : Byte) (args : List Byte) (s : State), Ready s → s.initialised = true →
    busCompletes (1 + args.length) s.busLeft = true →
    exec (.record cmd args) s = .next { s with
      tp := s.tp + 2 + args.length, rc := s.rc - 1, cs := true, dc := !args.isEmpty,
      hist := s.hist ++ commandEvents cmd ++ args.flatMap dataEvents, busLeft := busSpend (1 + args.length) s.busLeft }

/-- REC.D (41_command_protocol.md section 2): everything REC does (D13 as there), then the delay, 500 ms for the delay byte 255 and
its own value in milliseconds for any other. -/
def Obligations.RecordDelayEndsInItsDelay : Prop :=
  ∀ (cmd d : Byte) (args : List Byte) (s : State), Ready s → s.initialised = true →
    busCompletes (1 + args.length) s.busLeft = true →
    exec (.recordDelay cmd args d) s = .next { s with
      tp := s.tp + 3 + args.length, rc := s.rc - 1, cs := true, dc := !args.isEmpty,
      hist := s.hist ++ commandEvents cmd ++ args.flatMap dataEvents
        ++ [.delay (if d = 255#8 then 500 else d.toNat)],
      busLeft := busSpend (1 + args.length) s.busLeft }

/-- A record, with or without a delay, whose command byte never completes (95_test_vectors.md V12; the spec's decisions D21 and D33):
CS stays low, no byte is recorded, and the engine hangs or, with a timeout, faults. The hang as a next state is the model's
(log entry 9). -/
def Obligations.StalledRecordLeavesTheLineLow : Prop :=
  ∀ (i : Instr) (cmd : Byte) (args : List Byte) (s : State), Ready s → s.initialised = true → s.busLeft = some 0 →
    (i = .record cmd args ∨ ∃ d, i = .recordDelay cmd args d) →
    (s.params.busTimeout = none → exec i s = .next { s with
      tp := s.tp + 2, cs := false, dc := false, hist := s.hist ++ [.line .dc false, .line .cs false], stuck := some cmd })
    ∧ (s.params.busTimeout ≠ none → exec i s = .next { s with
      tp := s.tp + 2, cs := false, dc := false, hist := s.hist ++ [.line .dc false, .line .cs false],
      fault := some (.peripheralTimeout cmd), phase := .idle })

/-- Decoding a record whole and executing it is the byte-wise interpreter of 41_command_protocol.md R92 and R93: inside INIT a step
with records left always does what the interpreter does at tp, whether or not the table holds the whole record. -/
def Obligations.RecordStepIsTheByteInterpreter : Prop :=
  ∀ (s : State), Ready s → s.phase = .records → s.rc ≠ 0 → step s = .next (interpretRecord s).state

/-- A table that ends inside a record (41_command_protocol.md R95): what could be read has been sent, then DecodeError with the
offset of the first byte that is missing; nothing after it, so the counter stays and INIT's fill does not run. Faulting at the first
bad read is the spec's decision D19, one transaction an argument byte D13. -/
def Obligations.TruncatedRecordFaultsAfterWhatWasSent : Prop :=
  ∀ (s : State), Ready s → s.phase = .records → s.rc ≠ 0 → s.initialised = true → busCompletes 128 s.busLeft = true →
    s.tp ≤ s.params.initTable.length → decodeRecord (s.params.initTable.drop s.tp) = .error .truncatedRecord →
    ∃ t, step s = .next t ∧ t.fault = some (.decodeError s.params.initTable.length) ∧ t.tp = s.params.initTable.length
      ∧ t.rc = s.rc ∧ t.status = s.status ∧ t.phase = .idle ∧ t.stuck = none
      ∧ t.hist = s.hist ++ (match s.params.initTable.drop s.tp with
        | cmd :: b :: rest => commandEvents cmd ++ (rest.take (argCount b)).flatMap dataEvents
        | _ => [])

/-- An empty table raises DecodeError(0) at the read of its count (41_command_protocol.md section 2; the spec's decision D19). -/
def Obligations.EmptyTableFaultsAtItsCount : Prop :=
  ∀ (s : State), Ready s → s.phase = .header → s.params.initTable = [] → s.tp = 0 →
    step s = .next { s with fault := some (.decodeError 0), phase := .idle }

/-! ## Font rasterizer -/

/-- glyphIndex (42_font_rasterizer.md R97): code - 32 where that is in 0..97, and 97 on both sides of it. -/
def Obligations.GlyphIndexClampsToTheFallback : Prop :=
  ∀ (code : Byte),
    glyphIndex code = (if code.toNat < 32 then 97 else if code.toNat - 32 > 97 then 97 else code.toNat - 32)
      ∧ glyphIndex code ≤ 97

/-- expandGlyph (42_font_rasterizer.md R100) for any column bytes: TEXTWIDTH * TEXTHEIGHT samples, sample `i*TEXTHEIGHT + j` being
column i and row j, foreground exactly when i is a drawable column and bit j of its byte is set (bit 0 is the least significant: D28). -/
def Obligations.ExpansionIsColumnByColumn : Prop :=
  ∀ (p : Params) (cols : List Byte) (fg bg : Colour), cols.length = p.textWidth →
    (expandGlyph p cols fg bg).length = p.textWidth * p.textHeight
      ∧ ∀ (i j : Nat) (b : Byte), i < p.textWidth → j < p.textHeight → cols[i]? = some b →
        (expandGlyph p cols fg bg)[i * p.textHeight + j]?
          = some (if i + 2 ≤ p.textWidth ∧ b.getLsbD j = true then fg else bg)

/-- rasterizeGlyph (42_font_rasterizer.md R98): the font's bytes of the clamped glyph, then the spacing column 0. FontRead of a glyph
0..97 and a drawable column is that byte of that entry of FONT, there for every legal font (20_memory.md section 1). -/
def Obligations.RasterizedColumns : Prop :=
  (∀ (p : Params) (code : Byte), (rasterizeGlyph p code).length = p.textWidth
    ∧ ∀ i, i < p.textWidth →
      (rasterizeGlyph p code)[i]? = some (if i = p.textWidth - 1 then 0#8 else fontRead p (glyphIndex code) i))
  ∧ ∀ (p : Params) (g i : Nat), p.wf = true → g ≤ 97 → i + 2 ≤ p.textWidth →
    ∃ glyph, p.font[g]? = some glyph ∧ glyph[i]? = some (fontRead p g i)

/-! ## DRAWCHAR -/

/-- DRAWCHAR fully outside the surface is a no-op without an event, also before INIT (43_display_surface.md section 2; the four
comparisons are the spec's decision D18). -/
def Obligations.DrawCharOutsideIsANoOp : Prop :=
  ∀ (x y : Word) (code : Byte) (fg bg : Colour) (s : State), Ready s → CellOutside s.params x.toInt y.toInt →
    exec (.drawChar x y code fg bg) s = .next { s with status := .outOfBounds }

/-- DRAWCHAR that meets the surface (43_display_surface.md section 2): the unclipped window of the cell, all its samples in one
burst, chip-select released, and the status says whether the cell stuck out. The unclipped window and the burst's opening are the spec's decisions
D18 and D14. -/
def Obligations.DrawCharSendsTheWholeCell : Prop :=
  ∀ (x y : Word) (code : Byte) (fg bg : Colour) (s : State), Ready s → s.initialised = true →
    ¬ CellOutside s.params x.toInt y.toInt → CellFits s.params x.toInt y.toInt →
    busCompletes (11 + 2 * (s.params.textWidth * s.params.textHeight)) s.busLeft = true →
    exec (.drawChar x y code fg bg) s = .next { s with
      cs := true, dc := true,
      hist := s.hist ++ windowEvents s.params x.toInt y.toInt (x.toInt + s.params.textWidth - 1) (y.toInt + s.params.textHeight - 1)
        ++ (expandGlyph s.params (rasterizeGlyph s.params code) fg bg).flatMap (fun v => [.byte (hi8 v), .byte (lo8 v)])
        ++ [.line .cs true],
      status := if CellInside s.params x.toInt y.toInt then .ok else .clippedPartial,
      busLeft := busSpend (11 + 2 * (s.params.textWidth * s.params.textHeight)) s.busLeft }

/-- Where DRAWCHAR traps before any event: a last column or row past 32767 raises CoordOverflow, and otherwise a cell that meets the
surface raises NotInitialised before INIT (the spec's decisions D3 and D23). -/
def Obligations.DrawCharTraps : Prop :=
  ∀ (x y : Word) (code : Byte) (fg bg : Colour) (s : State), Ready s → ¬ CellOutside s.params x.toInt y.toInt →
    (¬ CellFits s.params x.toInt y.toInt →
      exec (.drawChar x y code fg bg) s = .next { s with fault := some .coordOverflow, phase := .idle })
    ∧ (CellFits s.params x.toInt y.toInt → s.initialised = false →
      exec (.drawChar x y code fg bg) s = .next { s with fault := some .notInitialised, phase := .idle })

/-- However DRAWCHAR ends, also in a hang or a timeout, it has appended an initial piece of its events, all of them when it
completed, and a fault or hang leaves the status as it was (60_exceptions.md section 6, precision; D13, D14 and D18 as above). -/
def Obligations.DrawCharLeavesAnInitialPiece : Prop :=
  ∀ (x y : Word) (code : Byte) (fg bg : Colour) (s : State), Ready s → ¬ CellOutside s.params x.toInt y.toInt →
    ∃ t es, exec (.drawChar x y code fg bg) s = .next t ∧ t.hist = s.hist ++ es
      ∧ es <+: drawEvents s.params x.toInt y.toInt (x.toInt + s.params.textWidth - 1) (y.toInt + s.params.textHeight - 1)
          (glyphSamples s.params code fg bg)
      ∧ (Ready t → es = drawEvents s.params x.toInt y.toInt (x.toInt + s.params.textWidth - 1)
          (y.toInt + s.params.textHeight - 1) (glyphSamples s.params code fg bg))
      ∧ (¬ Ready t → t.status = s.status)

/-! ## FILLRECT -/

/-- FILLRECT with its top-left outside the surface is a no-op without an event, whatever its size and also before INIT
(43_display_surface.md section 3; the negative side is the spec's decision D16). -/
def Obligations.FillRectOutsideIsANoOp : Prop :=
  ∀ (x y w h : Word) (colour : Colour) (s : State), Ready s →
    x.toInt < 0 ∨ y.toInt < 0 ∨ x.toInt ≥ s.params.width ∨ y.toInt ≥ s.params.height →
    exec (.fillRect x y w h colour) s = .next { s with status := .outOfBounds }

/-- FILLRECT inside (43_display_surface.md section 3): both extents are clamped against WIDTH, the height too (the preserved defect),
and the rectangle is sent as one burst of solid samples. The clamp's comparisons are the spec's decision D15. -/
def Obligations.FillRectSendsTheClampedRectangle : Prop :=
  ∀ (x y w h : Word) (colour : Colour) (s : State), Ready s → s.initialised = true →
    0 ≤ x.toInt → 0 ≤ y.toInt → x.toInt < s.params.width → y.toInt < s.params.height → y.toInt < s.params.width →
    1 ≤ w.toInt → 1 ≤ h.toInt →
    let we := min (w.toInt - 1) ((s.params.width : Int) - 1 - x.toInt)
    let he := min (h.toInt - 1) ((s.params.width : Int) - 1 - y.toInt)
    let n := ((we + 1) * (he + 1)).toNat
    busCompletes (11 + 2 * n) s.busLeft = true →
    exec (.fillRect x y w h colour) s = .next { s with
      cs := true, dc := true,
      hist := s.hist ++ windowEvents s.params x.toInt y.toInt (x.toInt + we) (y.toInt + he)
        ++ (List.replicate n [Event.byte (hi8 colour), Event.byte (lo8 colour)]).flatten ++ [.line .cs true],
      status := if we < w.toInt - 1 ∨ he < h.toInt - 1 then .clippedPartial else .ok,
      busLeft := busSpend (11 + 2 * n) s.busLeft }

/-- Where FILLRECT traps before any event: a width or height below 1, or a top row at or past WIDTH, raises OperandUnspecified; else
NotInitialised before INIT (the spec's decisions D17 and D23, in the order of its section on priority). -/
def Obligations.FillRectTraps : Prop :=
  ∀ (x y w h : Word) (colour : Colour) (s : State), Ready s →
    0 ≤ x.toInt → 0 ≤ y.toInt → x.toInt < s.params.width → y.toInt < s.params.height →
    (w.toInt < 1 ∨ h.toInt < 1 ∨ y.toInt ≥ s.params.width →
      exec (.fillRect x y w h colour) s = .next { s with fault := some .operandUnspecified, phase := .idle })
    ∧ (¬ (w.toInt < 1 ∨ h.toInt < 1 ∨ y.toInt ≥ s.params.width) → s.initialised = false →
      exec (.fillRect x y w h colour) s = .next { s with fault := some .notInitialised, phase := .idle })

/-! ## WRITE -/

/-- WRITE of a line feed (43_display_surface.md section 1): cursorX 0, cursorY one cell height further, never reset, response 1,
nothing drawn. That "stop" has no effect is the spec's decision D31. -/
def Obligations.WriteLineFeedMovesToTheNextLine : Prop :=
  ∀ (s : State), Ready s →
    (s.cursorY.toInt + s.params.textHeight ≤ 32767 → ∃ y : Word, y.toInt = s.cursorY.toInt + s.params.textHeight
      ∧ exec (.write 0x0A#8) s = .next { s with cursorX := 0, cursorY := y, hist := s.hist ++ [.ret 1], status := .ok })
    ∧ (¬ s.cursorY.toInt + s.params.textHeight ≤ 32767 →
      exec (.write 0x0A#8) s = .next { s with cursorX := 0, fault := some .coordOverflow, phase := .idle })

/-- WRITE of a carriage return (43_display_surface.md R107): nothing but the response 1 and the status Ok. -/
def Obligations.WriteCarriageReturnIsDiscarded : Prop :=
  ∀ (s : State), Ready s → exec (.write 0x0D#8) s = .next { s with hist := s.hist ++ [.ret 1], status := .ok }

/-- WRITE of any other code whose cell is off the surface: no event but the response 1, the advance and the wrap all the same
(43_display_surface.md sections 1 and 7; the cursor is that of the spec's derived table, the test for "off" D18). -/
def Obligations.WriteOffTheSurfaceStillAdvances : Prop :=
  ∀ (code : Byte) (s : State), Ready s → code ≠ 0x0A#8 → code ≠ 0x0D#8 →
    CellOutside s.params s.cursorX.toInt s.cursorY.toInt →
    CursorSumsFit s.params s.wrap s.cursorX.toInt s.cursorY.toInt →
    ∃ x y : Word, (x.toInt, y.toInt) = cursorAfter s.params s.wrap s.cursorX.toInt s.cursorY.toInt
      ∧ exec (.write code) s = .next { s with
        cursorX := x, cursorY := y, hist := s.hist ++ [.ret 1], status := .outOfBounds, drawStatus := none }

/-- WRITE of any other code whose cell meets the surface: the glyph at the cursor in the current colours, then the cursor of the
spec's derived table, then the response 1 (43_display_surface.md sections 1 and 7; D18 and D14 as for DRAWCHAR). -/
def Obligations.WriteDrawsThenMovesTheCursor : Prop :=
  ∀ (code : Byte) (s : State), Ready s → s.initialised = true → code ≠ 0x0A#8 → code ≠ 0x0D#8 →
    ¬ CellOutside s.params s.cursorX.toInt s.cursorY.toInt → CellFits s.params s.cursorX.toInt s.cursorY.toInt →
    CursorSumsFit s.params s.wrap s.cursorX.toInt s.cursorY.toInt → busCompletes (glyphBytes s.params) s.busLeft = true →
    ∃ x y : Word, (x.toInt, y.toInt) = cursorAfter s.params s.wrap s.cursorX.toInt s.cursorY.toInt
      ∧ exec (.write code) s = .next { s with
        cursorX := x, cursorY := y, cs := true, dc := true,
        hist := s.hist ++ drawEvents s.params s.cursorX.toInt s.cursorY.toInt (s.cursorX.toInt + s.params.textWidth - 1)
          (s.cursorY.toInt + s.params.textHeight - 1) (glyphSamples s.params code s.textColour s.backgroundColour) ++ [.ret 1],
        status := if CellInside s.params s.cursorX.toInt s.cursorY.toInt then .ok else .clippedPartial, drawStatus := none,
        busLeft := busSpend (glyphBytes s.params) s.busLeft }

/-- Where WRITE of any other code traps (43_display_surface.md sections 1 and 7; the faults are the spec's decisions D3 and D23). While
drawing, before any event: CoordOverflow where the last column or row of a cell that meets the surface passes 32767, else
NotInitialised before INIT. After the drawing, whether the cell was off the surface or was sent: an advance past 32767 faults with
cursorX as it was, and a wrap whose new row passes 32767 faults with cursorX already 0; in both there is no response, `status` stays
that of the last completed operation (10_state.md section 5), and what DRAWCHAR's status line wrote before the raise stands beside it
(60_exceptions.md section 6); that both are kept is the model's choice (log entry 11). That the new row is checked before the test
against HEIGHT, which matters only with cursorY at most HEIGHT on a surface near 32767 rows, is its inference (log entry 12). -/
def Obligations.WriteTraps : Prop :=
  ∀ (code : Byte) (s : State), Ready s → code ≠ 0x0A#8 → code ≠ 0x0D#8 →
    let p := s.params
    let x := s.cursorX.toInt
    let y := s.cursorY.toInt
    (¬ CellOutside p x y → ¬ CellFits p x y →
      exec (.write code) s = .next { s with fault := some .coordOverflow, phase := .idle })
    ∧ (¬ CellOutside p x y → CellFits p x y → s.initialised = false →
      exec (.write code) s = .next { s with fault := some .notInitialised, phase := .idle })
    ∧ ∀ (drawn : State),
      (CellOutside p x y ∧ drawn = { s with drawStatus := some .outOfBounds })
        ∨ (¬ CellOutside p x y ∧ CellFits p x y ∧ s.initialised = true ∧ busCompletes (glyphBytes p) s.busLeft = true
          ∧ drawn = { s with
            cs := true, dc := true,
            hist := s.hist ++ drawEvents p x y (x + p.textWidth - 1) (y + p.textHeight - 1)
              (glyphSamples p code s.textColour s.backgroundColour),
            drawStatus := some (if CellInside p x y then .ok else .clippedPartial),
            busLeft := busSpend (glyphBytes p) s.busLeft }) →
      (x + p.textWidth > 32767 →
        exec (.write code) s = .next { drawn with fault := some .coordOverflow, phase := .idle })
      ∧ (s.wrap = true → x + p.textWidth ≤ 32767 → x + p.textWidth > (p.width : Int) - p.textWidth →
        y + p.textHeight > 32767 →
        exec (.write code) s = .next { drawn with cursorX := 0, fault := some .coordOverflow, phase := .idle })

/-- The horizontal invariant under wrap (43_display_surface.md section 7, derived there): with the cursor's cell inside the row
before any WRITE, it is inside the row after it, however the WRITE ended. -/
def Obligations.WrapKeepsTheCursorInTheRow : Prop :=
  ∀ (code : Byte) (s t : State), s.params.wf = true → s.params.textWidth ≤ s.params.width → s.wrap = true → CursorInRow s →
    exec (.write code) s = .next t → CursorInRow t ∧ t.wrap = true ∧ t.params = s.params

/-! ## Accessors -/

/-- SETCURSOR (43_display_surface.md R119): both registers take the products, or neither and CoordOverflow. The frame's layout is the
spec's decision D1, the fault D3. -/
def Obligations.SetCursorWritesBothOrFaults : Prop :=
  ∀ (col row : Word) (s : State), Ready s →
    let nx := col.toInt * s.params.textWidth
    let ny := row.toInt * s.params.textHeight
    encode (.setCursor col row) = [0x04#8, hi8 col, lo8 col, hi8 row, lo8 row]
    ∧ (-32768 ≤ nx ∧ nx ≤ 32767 ∧ -32768 ≤ ny ∧ ny ≤ 32767 → ∃ x y : Word, x.toInt = nx ∧ y.toInt = ny
      ∧ exec (.setCursor col row) s = .next { s with cursorX := x, cursorY := y, status := .ok })
    ∧ (¬ (-32768 ≤ nx ∧ nx ≤ 32767 ∧ -32768 ≤ ny ∧ ny ≤ 32767) →
      exec (.setCursor col row) s = .next { s with fault := some .coordOverflow, phase := .idle })

/-- SETTEXTCOLOUR and GETTEXTCOLOUR (43_display_surface.md R120, R121), with their frames (layout: D1). -/
def Obligations.TextColourIsSetAndReturned : Prop :=
  ∀ (v : Colour) (s : State), Ready s →
    encode (.setTextColour v) = [0x05#8, hi8 v, lo8 v] ∧ encode .getTextColour = [0x06#8]
    ∧ exec (.setTextColour v) s = .next { s with textColour := v, status := .ok }
    ∧ exec .getTextColour s = .next { s with hist := s.hist ++ [.ret s.textColour], status := .ok }

/-- SETBGCOLOUR and GETBGCOLOUR (43_display_surface.md R122, R123), with their frames (layout: D1). -/
def Obligations.BackgroundColourIsSetAndReturned : Prop :=
  ∀ (v : Colour) (s : State), Ready s →
    encode (.setBgColour v) = [0x07#8, hi8 v, lo8 v] ∧ encode .getBgColour = [0x08#8]
    ∧ exec (.setBgColour v) s = .next { s with backgroundColour := v, status := .ok }
    ∧ exec .getBgColour s = .next { s with hist := s.hist ++ [.ret s.backgroundColour], status := .ok }

/-- SETTEXTWRAP (43_display_surface.md R124): byte 0 is false, any other true (D26); the cursor does not move. -/
def Obligations.TextWrapTakesTheByte : Prop :=
  ∀ (b : Byte) (s : State), Ready s →
    encode (.setTextWrap b) = [0x09#8, b]
    ∧ exec (.setTextWrap b) s = .next { s with wrap := decide (b ≠ 0#8), status := .ok }

/-- GETCURSORX and GETCURSORY (43_display_surface.md R125, R126): the register in pixels (responses of 16 bits: D32). -/
def Obligations.CursorIsReturnedInPixels : Prop :=
  ∀ (s : State), Ready s →
    encode .getCursorX = [0x0A#8] ∧ encode .getCursorY = [0x0B#8]
    ∧ exec .getCursorX s = .next { s with hist := s.hist ++ [.ret s.cursorX], status := .ok }
    ∧ exec .getCursorY s = .next { s with hist := s.hist ++ [.ret s.cursorY], status := .ok }

/-! ## INIT -/

/-- INIT's own step (43_display_surface.md section 4): the three directions, `initialised`, the high-low-high pulse with its three
10 ms delays, and the table replay is begun at tp 0. Order and number of these events are the spec's decisions D11 and D12; that the replay goes on in
further steps is the model's (log entry 7). -/
def Obligations.InitBringsUpTheLines : Prop :=
  ∀ (s : State), Ready s →
    exec .init s = .next { s with
      csOut := true, dcOut := true, rstOut := true, initialised := true, rst := true, tp := 0, phase := .header,
      hist := s.hist ++ [.dir .cs, .dir .dc, .dir .rst, .line .rst true, .delay 10, .line .rst false, .delay 10,
        .line .rst true, .delay 10] }

/-- INIT's closing fill (43_display_surface.md section 4): with no record left, one step sends the full-width rectangle of height
min(HEIGHT, WIDTH) in the background colour and INIT returns, with status ClippedPartial exactly on a portrait surface (D13, D14 and
D15 as for FILLRECT). That the fill is a step of its own is the model's (log entry 7). -/
def Obligations.InitEndsWithTheFill : Prop :=
  ∀ (s : State), Ready s → s.phase = .records → s.rc = 0 → s.initialised = true → s.params.wf = true →
    busCompletes (11 + 2 * (s.params.width * min s.params.height s.params.width)) s.busLeft = true →
    step s = .next { s with
      cs := true, dc := true, phase := .idle,
      hist := s.hist ++ drawEvents s.params 0 0 ((s.params.width : Int) - 1) ((min s.params.height s.params.width : Nat) - 1 : Int)
        (List.replicate (s.params.width * min s.params.height s.params.width) s.backgroundColour),
      status := if s.params.height > s.params.width then .clippedPartial else .ok,
      busLeft := busSpend (11 + 2 * (s.params.width * min s.params.height s.params.width)) s.busLeft }

/-- The whole of INIT (43_display_surface.md section 4, 41_command_protocol.md section 2): from an idle engine whose next request is
`init()` and whose table is well formed, one step for INIT, one for the count, one a record and one for the fill leave exactly the
events of the spec's sequence. The number of steps is the model's choice (log entry 7); three delays in the pulse, the order of the
directions and one transaction an argument byte are the spec's decisions D11, D12 and D13, the rest of the fill D14 and D15. -/
def Obligations.InitRunsItsWholeSequence : Prop :=
  ∀ (s : State) (rest : List Frame) (is : List Instr), Ready s → s.phase = .idle → s.host = [0x00#8] :: rest →
    s.params.wf = true → decodeTable s.params.initTable = .ok is →
    let p := s.params
    let n := p.width * min p.height p.width
    let bytes := (is.map recordBytes).sum + (11 + 2 * n)
    busCompletes bytes s.busLeft = true →
    run (is.length + 3) s = .next { s with
      host := rest, csOut := true, dcOut := true, rstOut := true, initialised := true, cs := true, dc := true, rst := true,
      tp := 1 + (is.flatMap encode).length, rc := 0, phase := .idle,
      hist := s.hist ++ bringUpEvents ++ is.flatMap recordEvents
        ++ drawEvents p 0 0 ((p.width : Int) - 1) ((min p.height p.width : Nat) - 1 : Int) (List.replicate n s.backgroundColour),
      status := if p.height > p.width then .clippedPartial else .ok,
      busLeft := busSpend bytes s.busLeft }

/-- INIT always comes to an end when the peripheral completes every byte, whatever the table holds (41_command_protocol.md section 2,
60_exceptions.md section 6): within 258 steps the engine is between operations again, faulted only by DecodeError. The number of
steps is the model's choice (log entry 7); the premise on the peripheral is the fairness premise of the spec's decision D33. -/
def Obligations.InitTerminates : Prop :=
  ∀ (s : State) (rest : List Frame), Ready s → s.phase = .idle → s.host = [0x00#8] :: rest → s.busLeft = none →
    s.params.wf = true →
    ∃ k t, k ≤ 258 ∧ run k s = .next t ∧ t.phase = .idle ∧ t.host = rest ∧ t.stuck = none
      ∧ (t.fault = none ∨ ∃ a, a ≤ s.params.initTable.length ∧ t.fault = some (.decodeError a))

/-! ## Faults and the hang -/

/-- A faulted engine executes nothing: no instruction changes its state, and its steps only take requests off the port, for ever; a
stuck engine has no further step (60_exceptions.md sections 1 and 6; that every fault is sticky is the spec's decision D20, the hang
D33, and the stop the model's, log entry 9). -/
def Obligations.StoppedEngineExecutesNothing : Prop :=
  (∀ (c : Cause) (s : State), s.stuck = none → s.fault = some c →
    (∀ i, exec i s = .next s) ∧ ∀ k, run k s = .next { s with host := s.host.drop k })
  ∧ ∀ (b : Byte) (s : State), s.stuck = some b → step s = .fault .busStalled ∧ ∀ i, exec i s = .fault .busStalled

/-! ## Invariants every step keeps -/

/-- The chip-select discipline (40_bus_transport.md section on chip-select, derived there; 70_reset_and_hazards.md section 3): every
byte inside a transaction, CS lowered only directly after DC was driven, DC still inside a transaction, the level registers those last driven, and no
open transaction while the engine can act. -/
def Obligations.StepKeepsTheBusDiscipline : Prop :=
  ∀ (s t : State), BusInv s → step s = .next t → BusInv t

/-- Lines are outputs exactly after INIT, nothing went out before it, tp stays in the table, rc is a byte, a faulted engine is in no
operation (10_state.md sections 4, 5 and 7; D20 and D23), and only a faulted engine holds a status written by an operation that did
not end (log entry 11). -/
def Obligations.StepKeepsTheBringUpInvariant : Prop :=
  ∀ (s t : State), BringUpInv s → step s = .next t → BringUpInv t

/-- Both invariants hold after construction, for every parameter and draw, hence at State.reset. -/
def Obligations.ConstructionMeetsBothInvariants : Prop :=
  (∀ (p : Params) (cs dc rst : Bool) (o : Option Nat),
    BusInv (State.construct p cs dc rst o) ∧ BringUpInv (State.construct p cs dc rst o))
  ∧ BusInv State.reset ∧ BringUpInv State.reset

/-- No step writes a parameter, so TABLE and FONT hold what they held; the history only grows; requests are taken in order; an
initialised engine stays initialised; the status is overwritten only where a host operation ends, never in a step that faults, hangs
or leaves INIT in progress (10_state.md sections 2, 5 and 6, 20_memory.md section 6; what a WRITE that faults behind its drawing wrote
is not in `status` but beside it, the model's choice, log entry 11). -/
def Obligations.StepOnlyAppendsAndKeepsParameters : Prop :=
  ∀ (s t : State), step s = .next t →
    t.params = s.params ∧ s.hist <+: t.hist ∧ (t.host = s.host ∨ t.host = s.host.tail)
      ∧ (s.initialised = true → t.initialised = true)
      ∧ (¬ Ready t ∨ t.phase ≠ .idle → t.status = s.status)

/-! ## Frames -/

/-- What DRAWCHAR and FILLRECT leave unchanged, however they end: the five surface registers, tp, rc, RST, the directions,
`initialised`, the parameters with TABLE and FONT, the host port; the history only grows (10_state.md section 3). -/
def Obligations.DrawingFrame : Prop :=
  ∀ (i : Instr) (s t : State),
    (∃ x y code fg bg, i = .drawChar x y code fg bg) ∨ (∃ x y w h colour, i = .fillRect x y w h colour) →
    exec i s = .next t →
    s.hist <+: t.hist ∧ t = { s with
      cs := t.cs, dc := t.dc, hist := t.hist, busLeft := t.busLeft, status := t.status, fault := t.fault, phase := t.phase,
      stuck := t.stuck }

/-- What WRITE leaves unchanged, however it ends: all but the two cursor registers, the status in both its forms (log
entry 11) and what drawing may change. -/
def Obligations.WriteFrame : Prop :=
  ∀ (code : Byte) (s t : State), exec (.write code) s = .next t →
    s.hist <+: t.hist ∧ t = { s with
      cursorX := t.cursorX, cursorY := t.cursorY, cs := t.cs, dc := t.dc, hist := t.hist, busLeft := t.busLeft,
      status := t.status, drawStatus := t.drawStatus, fault := t.fault, phase := t.phase, stuck := t.stuck }

/-- What the table instructions leave unchanged, however they end: the five surface registers, RST, the directions, `initialised`,
the parameters, the status, the host port. -/
def Obligations.TableInstructionFrame : Prop :=
  ∀ (i : Instr) (s t : State), i.stream ≠ .host → exec i s = .next t →
    s.hist <+: t.hist ∧ t = { s with
      tp := t.tp, rc := t.rc, cs := t.cs, dc := t.dc, hist := t.hist, busLeft := t.busLeft, fault := t.fault, phase := t.phase,
      stuck := t.stuck }

/-! ## What no operation can learn -/

/-- No operation reads a line level, a direction or the status (60_exceptions.md sections 2 and 5): two engines that differ only in
these take steps that differ only in these. -/
def Obligations.StepIgnoresLinesAndStatus : Prop :=
  ∀ (s : State) (cs dc rst co dco ro : Bool) (st : Status) (ds : Option Status),
    mapNext withoutUnread (step { s with
        cs := cs, dc := dc, rst := rst, csOut := co, dcOut := dco, rstOut := ro, status := st, drawStatus := ds })
      = mapNext withoutUnread (step s)

/-- There is no read-back (00_scope.md section 3, 20_memory.md section 1): whatever the history before, a step appends the same
events and does the same otherwise. -/
def Obligations.StepNeverReadsTheHistory : Prop :=
  ∀ (s : State) (h : List Event),
    step { s with hist := h } = mapNext (fun t => { t with hist := h ++ t.hist.drop s.hist.length }) (step s)

/-- DRAWCHAR and FILLRECT read none of the five surface registers (10_state.md section 3). -/
def Obligations.DrawingReadsNoSurfaceRegister : Prop :=
  ∀ (i : Instr) (s : State) (x y : Word) (tc bg : Colour) (w : Bool),
    (∃ a b code f g, i = .drawChar a b code f g) ∨ (∃ a b c d colour, i = .fillRect a b c d colour) →
    exec i { s with cursorX := x, cursorY := y, textColour := tc, backgroundColour := bg, wrap := w }
      = mapNext (fun t => { t with cursorX := x, cursorY := y, textColour := tc, backgroundColour := bg, wrap := w }) (exec i s)

/-! ## The reference panel -/

/-- A glyph whose cell lies in the surface, sent to the reference panel (20_memory.md section 4, 42_font_rasterizer.md section on
count and order): cell pixel (i, j) takes the foreground exactly where bit j of the glyph's column i is set in a drawable column, else the background,
and no other pixel changes. Premise: the three command bytes differ. The panel is the spec's decision D29; that a command drops what
the panel had half received before it is the model's choice (log entry 17). -/
def Obligations.GlyphLandsOnItsCell : Prop :=
  ∀ (p : Params) (q : Panel) (x y : Nat) (code : Byte) (fg bg : Colour), p.wf = true →
    q.width = p.width → q.height = p.height → q.cmdColset = p.cmdColset → q.cmdRowset = p.cmdRowset → q.cmdRamwr = p.cmdRamwr →
    p.cmdColset ≠ p.cmdRowset → p.cmdColset ≠ p.cmdRamwr → p.cmdRowset ≠ p.cmdRamwr →
    x + p.textWidth ≤ p.width → y + p.textHeight ≤ p.height →
    ∃ q', q.takeAll (windowStream p x y ((x : Int) + p.textWidth - 1) ((y : Int) + p.textHeight - 1)
          ++ sampleStream (glyphSamples p code fg bg)) = some q'
      ∧ (∀ i j, i < p.textWidth → j < p.textHeight → q'.pixel (x + i) (y + j)
          = some (if i + 2 ≤ p.textWidth ∧ (fontRead p (glyphIndex code) i).getLsbD j = true then fg else bg))
      ∧ ∀ x' y', x' < p.width → y' < p.height →
        ¬ (x ≤ x' ∧ x' < x + p.textWidth ∧ y ≤ y' ∧ y' < y + p.textHeight) → q'.pixel x' y' = q.pixel x' y'

/-- A solid rectangle in the surface, sent to the reference panel (20_memory.md section 4, 43_display_surface.md section 3): every
pixel of it takes the colour and no other pixel changes. Premise: the three command bytes differ. The panel is the spec's decision D29;
that a command drops what the panel had half received before it is the model's choice (log entry 17). -/
def Obligations.FillLandsOnItsRectangle : Prop :=
  ∀ (p : Params) (q : Panel) (x y we he : Nat) (colour : Colour), p.wf = true →
    q.width = p.width → q.height = p.height → q.cmdColset = p.cmdColset → q.cmdRowset = p.cmdRowset → q.cmdRamwr = p.cmdRamwr →
    p.cmdColset ≠ p.cmdRowset → p.cmdColset ≠ p.cmdRamwr → p.cmdRowset ≠ p.cmdRamwr →
    x + we < p.width → y + he < p.height →
    ∃ q', q.takeAll (windowStream p x y ((x : Int) + we) ((y : Int) + he)
          ++ sampleStream (List.replicate ((we + 1) * (he + 1)) colour)) = some q'
      ∧ ∀ x' y', x' < p.width → y' < p.height → q'.pixel x' y'
        = if x ≤ x' ∧ x' ≤ x + we ∧ y ≤ y' ∧ y' ≤ y + he then some colour else q.pixel x' y'
end

