-- ==== Sys2Proof/Laws/State.lean ====
section
/-! SUPPORT. One lemma per field per update: what each named update of the state does to each field, all true by unfolding once,
so that no later proof unfolds a record update. -/

namespace Sys2Proof.Machine

@[simp] theorem Progress.state_done (s : State) : (Progress.done s).state = s := rfl
@[simp] theorem Progress.state_halted (s : State) : (Progress.halted s).state = s := rfl
@[simp] theorem Progress.andThen_done (s : State) (f : State → Progress) : (Progress.done s).andThen f = f s := rfl
@[simp] theorem Progress.andThen_halted (s : State) (f : State → Progress) : (Progress.halted s).andThen f = .halted s := rfl

theorem driveLine_eq (l : Line) (v : Bool) (s : State) : driveLine l v s = emit (.line l v) (setLevel l v s) := rfl
theorem configureOutput_eq (l : Line) (s : State) : configureOutput l s = emit (.dir l) (setOutput l s) := rfl
theorem delayFor_eq (ms : Nat) (s : State) : delayFor ms s = emit (.delay ms) s := rfl
theorem respond_eq (v : Word) (s : State) : respond v s = emit (.ret v) s := rfl
theorem closeBurst_eq (s : State) : closeBurst s = emit (.line .cs true) (setLevel .cs true s) := rfl

/-! `emit` -/

@[simp] theorem emit_params (e : Event) (s : State) : (emit e s).params = s.params := rfl
@[simp] theorem emit_cursorX (e : Event) (s : State) : (emit e s).cursorX = s.cursorX := rfl
@[simp] theorem emit_cursorY (e : Event) (s : State) : (emit e s).cursorY = s.cursorY := rfl
@[simp] theorem emit_textColour (e : Event) (s : State) : (emit e s).textColour = s.textColour := rfl
@[simp] theorem emit_backgroundColour (e : Event) (s : State) : (emit e s).backgroundColour = s.backgroundColour := rfl
@[simp] theorem emit_wrap (e : Event) (s : State) : (emit e s).wrap = s.wrap := rfl
@[simp] theorem emit_tp (e : Event) (s : State) : (emit e s).tp = s.tp := rfl
@[simp] theorem emit_rc (e : Event) (s : State) : (emit e s).rc = s.rc := rfl
@[simp] theorem emit_cs (e : Event) (s : State) : (emit e s).cs = s.cs := rfl
@[simp] theorem emit_dc (e : Event) (s : State) : (emit e s).dc = s.dc := rfl
@[simp] theorem emit_rst (e : Event) (s : State) : (emit e s).rst = s.rst := rfl
@[simp] theorem emit_csOut (e : Event) (s : State) : (emit e s).csOut = s.csOut := rfl
@[simp] theorem emit_dcOut (e : Event) (s : State) : (emit e s).dcOut = s.dcOut := rfl
@[simp] theorem emit_rstOut (e : Event) (s : State) : (emit e s).rstOut = s.rstOut := rfl
@[simp] theorem emit_initialised (e : Event) (s : State) : (emit e s).initialised = s.initialised := rfl
@[simp] theorem emit_fault (e : Event) (s : State) : (emit e s).fault = s.fault := rfl
@[simp] theorem emit_status (e : Event) (s : State) : (emit e s).status = s.status := rfl
@[simp] theorem emit_drawStatus (e : Event) (s : State) : (emit e s).drawStatus = s.drawStatus := rfl
@[simp] theorem emit_hist (e : Event) (s : State) : (emit e s).hist = s.hist ++ [e] := rfl
@[simp] theorem emit_phase (e : Event) (s : State) : (emit e s).phase = s.phase := rfl
@[simp] theorem emit_stuck (e : Event) (s : State) : (emit e s).stuck = s.stuck := rfl
@[simp] theorem emit_host (e : Event) (s : State) : (emit e s).host = s.host := rfl
@[simp] theorem emit_busLeft (e : Event) (s : State) : (emit e s).busLeft = s.busLeft := rfl

/-! `setCursorX` -/

@[simp] theorem setCursorX_params (w : Word) (s : State) : (setCursorX w s).params = s.params := rfl
@[simp] theorem setCursorX_cursorX (w : Word) (s : State) : (setCursorX w s).cursorX = w := rfl
@[simp] theorem setCursorX_cursorY (w : Word) (s : State) : (setCursorX w s).cursorY = s.cursorY := rfl
@[simp] theorem setCursorX_textColour (w : Word) (s : State) : (setCursorX w s).textColour = s.textColour := rfl
@[simp] theorem setCursorX_backgroundColour (w : Word) (s : State) : (setCursorX w s).backgroundColour = s.backgroundColour := rfl
@[simp] theorem setCursorX_wrap (w : Word) (s : State) : (setCursorX w s).wrap = s.wrap := rfl
@[simp] theorem setCursorX_tp (w : Word) (s : State) : (setCursorX w s).tp = s.tp := rfl
@[simp] theorem setCursorX_rc (w : Word) (s : State) : (setCursorX w s).rc = s.rc := rfl
@[simp] theorem setCursorX_cs (w : Word) (s : State) : (setCursorX w s).cs = s.cs := rfl
@[simp] theorem setCursorX_dc (w : Word) (s : State) : (setCursorX w s).dc = s.dc := rfl
@[simp] theorem setCursorX_rst (w : Word) (s : State) : (setCursorX w s).rst = s.rst := rfl
@[simp] theorem setCursorX_csOut (w : Word) (s : State) : (setCursorX w s).csOut = s.csOut := rfl
@[simp] theorem setCursorX_dcOut (w : Word) (s : State) : (setCursorX w s).dcOut = s.dcOut := rfl
@[simp] theorem setCursorX_rstOut (w : Word) (s : State) : (setCursorX w s).rstOut = s.rstOut := rfl
@[simp] theorem setCursorX_initialised (w : Word) (s : State) : (setCursorX w s).initialised = s.initialised := rfl
@[simp] theorem setCursorX_fault (w : Word) (s : State) : (setCursorX w s).fault = s.fault := rfl
@[simp] theorem setCursorX_status (w : Word) (s : State) : (setCursorX w s).status = s.status := rfl
@[simp] theorem setCursorX_drawStatus (w : Word) (s : State) : (setCursorX w s).drawStatus = s.drawStatus := rfl
@[simp] theorem setCursorX_hist (w : Word) (s : State) : (setCursorX w s).hist = s.hist := rfl
@[simp] theorem setCursorX_phase (w : Word) (s : State) : (setCursorX w s).phase = s.phase := rfl
@[simp] theorem setCursorX_stuck (w : Word) (s : State) : (setCursorX w s).stuck = s.stuck := rfl
@[simp] theorem setCursorX_host (w : Word) (s : State) : (setCursorX w s).host = s.host := rfl
@[simp] theorem setCursorX_busLeft (w : Word) (s : State) : (setCursorX w s).busLeft = s.busLeft := rfl

/-! `setCursorY` -/

@[simp] theorem setCursorY_params (w : Word) (s : State) : (setCursorY w s).params = s.params := rfl
@[simp] theorem setCursorY_cursorX (w : Word) (s : State) : (setCursorY w s).cursorX = s.cursorX := rfl
@[simp] theorem setCursorY_cursorY (w : Word) (s : State) : (setCursorY w s).cursorY = w := rfl
@[simp] theorem setCursorY_textColour (w : Word) (s : State) : (setCursorY w s).textColour = s.textColour := rfl
@[simp] theorem setCursorY_backgroundColour (w : Word) (s : State) : (setCursorY w s).backgroundColour = s.backgroundColour := rfl
@[simp] theorem setCursorY_wrap (w : Word) (s : State) : (setCursorY w s).wrap = s.wrap := rfl
@[simp] theorem setCursorY_tp (w : Word) (s : State) : (setCursorY w s).tp = s.tp := rfl
@[simp] theorem setCursorY_rc (w : Word) (s : State) : (setCursorY w s).rc = s.rc := rfl
@[simp] theorem setCursorY_cs (w : Word) (s : State) : (setCursorY w s).cs = s.cs := rfl
@[simp] theorem setCursorY_dc (w : Word) (s : State) : (setCursorY w s).dc = s.dc := rfl
@[simp] theorem setCursorY_rst (w : Word) (s : State) : (setCursorY w s).rst = s.rst := rfl
@[simp] theorem setCursorY_csOut (w : Word) (s : State) : (setCursorY w s).csOut = s.csOut := rfl
@[simp] theorem setCursorY_dcOut (w : Word) (s : State) : (setCursorY w s).dcOut = s.dcOut := rfl
@[simp] theorem setCursorY_rstOut (w : Word) (s : State) : (setCursorY w s).rstOut = s.rstOut := rfl
@[simp] theorem setCursorY_initialised (w : Word) (s : State) : (setCursorY w s).initialised = s.initialised := rfl
@[simp] theorem setCursorY_fault (w : Word) (s : State) : (setCursorY w s).fault = s.fault := rfl
@[simp] theorem setCursorY_status (w : Word) (s : State) : (setCursorY w s).status = s.status := rfl
@[simp] theorem setCursorY_drawStatus (w : Word) (s : State) : (setCursorY w s).drawStatus = s.drawStatus := rfl
@[simp] theorem setCursorY_hist (w : Word) (s : State) : (setCursorY w s).hist = s.hist := rfl
@[simp] theorem setCursorY_phase (w : Word) (s : State) : (setCursorY w s).phase = s.phase := rfl
@[simp] theorem setCursorY_stuck (w : Word) (s : State) : (setCursorY w s).stuck = s.stuck := rfl
@[simp] theorem setCursorY_host (w : Word) (s : State) : (setCursorY w s).host = s.host := rfl
@[simp] theorem setCursorY_busLeft (w : Word) (s : State) : (setCursorY w s).busLeft = s.busLeft := rfl

/-! `setStatus` -/

@[simp] theorem setStatus_params (st : Status) (s : State) : (setStatus st s).params = s.params := rfl
@[simp] theorem setStatus_cursorX (st : Status) (s : State) : (setStatus st s).cursorX = s.cursorX := rfl
@[simp] theorem setStatus_cursorY (st : Status) (s : State) : (setStatus st s).cursorY = s.cursorY := rfl
@[simp] theorem setStatus_textColour (st : Status) (s : State) : (setStatus st s).textColour = s.textColour := rfl
@[simp] theorem setStatus_backgroundColour (st : Status) (s : State) : (setStatus st s).backgroundColour = s.backgroundColour := rfl
@[simp] theorem setStatus_wrap (st : Status) (s : State) : (setStatus st s).wrap = s.wrap := rfl
@[simp] theorem setStatus_tp (st : Status) (s : State) : (setStatus st s).tp = s.tp := rfl
@[simp] theorem setStatus_rc (st : Status) (s : State) : (setStatus st s).rc = s.rc := rfl
@[simp] theorem setStatus_cs (st : Status) (s : State) : (setStatus st s).cs = s.cs := rfl
@[simp] theorem setStatus_dc (st : Status) (s : State) : (setStatus st s).dc = s.dc := rfl
@[simp] theorem setStatus_rst (st : Status) (s : State) : (setStatus st s).rst = s.rst := rfl
@[simp] theorem setStatus_csOut (st : Status) (s : State) : (setStatus st s).csOut = s.csOut := rfl
@[simp] theorem setStatus_dcOut (st : Status) (s : State) : (setStatus st s).dcOut = s.dcOut := rfl
@[simp] theorem setStatus_rstOut (st : Status) (s : State) : (setStatus st s).rstOut = s.rstOut := rfl
@[simp] theorem setStatus_initialised (st : Status) (s : State) : (setStatus st s).initialised = s.initialised := rfl
@[simp] theorem setStatus_fault (st : Status) (s : State) : (setStatus st s).fault = s.fault := rfl
@[simp] theorem setStatus_status (st : Status) (s : State) : (setStatus st s).status = st := rfl
@[simp] theorem setStatus_drawStatus (st : Status) (s : State) : (setStatus st s).drawStatus = s.drawStatus := rfl
@[simp] theorem setStatus_hist (st : Status) (s : State) : (setStatus st s).hist = s.hist := rfl
@[simp] theorem setStatus_phase (st : Status) (s : State) : (setStatus st s).phase = s.phase := rfl
@[simp] theorem setStatus_stuck (st : Status) (s : State) : (setStatus st s).stuck = s.stuck := rfl
@[simp] theorem setStatus_host (st : Status) (s : State) : (setStatus st s).host = s.host := rfl
@[simp] theorem setStatus_busLeft (st : Status) (s : State) : (setStatus st s).busLeft = s.busLeft := rfl

/-! The status written and the status of the last completed operation -/

/-- Unless an operation ended in a raise behind its status line, the two are one. -/
theorem statusWritten_eq_status {s : State} (h : s.drawStatus = none) : s.statusWritten = s.status := by
  rw [State.statusWritten, h, Option.getD_none]

@[simp] theorem stageStatus_statusWritten (st : Status) (s : State) : (stageStatus st s).statusWritten = st := rfl
@[simp] theorem commitStatus_statusWritten (s : State) : (commitStatus s).statusWritten = s.statusWritten := rfl

/-! `stageStatus` -/

@[simp] theorem stageStatus_params (st : Status) (s : State) : (stageStatus st s).params = s.params := rfl
@[simp] theorem stageStatus_cursorX (st : Status) (s : State) : (stageStatus st s).cursorX = s.cursorX := rfl
@[simp] theorem stageStatus_cursorY (st : Status) (s : State) : (stageStatus st s).cursorY = s.cursorY := rfl
@[simp] theorem stageStatus_textColour (st : Status) (s : State) : (stageStatus st s).textColour = s.textColour := rfl
@[simp] theorem stageStatus_backgroundColour (st : Status) (s : State) : (stageStatus st s).backgroundColour = s.backgroundColour := rfl
@[simp] theorem stageStatus_wrap (st : Status) (s : State) : (stageStatus st s).wrap = s.wrap := rfl
@[simp] theorem stageStatus_tp (st : Status) (s : State) : (stageStatus st s).tp = s.tp := rfl
@[simp] theorem stageStatus_rc (st : Status) (s : State) : (stageStatus st s).rc = s.rc := rfl
@[simp] theorem stageStatus_cs (st : Status) (s : State) : (stageStatus st s).cs = s.cs := rfl
@[simp] theorem stageStatus_dc (st : Status) (s : State) : (stageStatus st s).dc = s.dc := rfl
@[simp] theorem stageStatus_rst (st : Status) (s : State) : (stageStatus st s).rst = s.rst := rfl
@[simp] theorem stageStatus_csOut (st : Status) (s : State) : (stageStatus st s).csOut = s.csOut := rfl
@[simp] theorem stageStatus_dcOut (st : Status) (s : State) : (stageStatus st s).dcOut = s.dcOut := rfl
@[simp] theorem stageStatus_rstOut (st : Status) (s : State) : (stageStatus st s).rstOut = s.rstOut := rfl
@[simp] theorem stageStatus_initialised (st : Status) (s : State) : (stageStatus st s).initialised = s.initialised := rfl
@[simp] theorem stageStatus_fault (st : Status) (s : State) : (stageStatus st s).fault = s.fault := rfl
@[simp] theorem stageStatus_status (st : Status) (s : State) : (stageStatus st s).status = s.status := rfl
@[simp] theorem stageStatus_drawStatus (st : Status) (s : State) : (stageStatus st s).drawStatus = some st := rfl
@[simp] theorem stageStatus_hist (st : Status) (s : State) : (stageStatus st s).hist = s.hist := rfl
@[simp] theorem stageStatus_phase (st : Status) (s : State) : (stageStatus st s).phase = s.phase := rfl
@[simp] theorem stageStatus_stuck (st : Status) (s : State) : (stageStatus st s).stuck = s.stuck := rfl
@[simp] theorem stageStatus_host (st : Status) (s : State) : (stageStatus st s).host = s.host := rfl
@[simp] theorem stageStatus_busLeft (st : Status) (s : State) : (stageStatus st s).busLeft = s.busLeft := rfl

/-! `commitStatus` -/

@[simp] theorem commitStatus_params (s : State) : (commitStatus s).params = s.params := rfl
@[simp] theorem commitStatus_cursorX (s : State) : (commitStatus s).cursorX = s.cursorX := rfl
@[simp] theorem commitStatus_cursorY (s : State) : (commitStatus s).cursorY = s.cursorY := rfl
@[simp] theorem commitStatus_textColour (s : State) : (commitStatus s).textColour = s.textColour := rfl
@[simp] theorem commitStatus_backgroundColour (s : State) : (commitStatus s).backgroundColour = s.backgroundColour := rfl
@[simp] theorem commitStatus_wrap (s : State) : (commitStatus s).wrap = s.wrap := rfl
@[simp] theorem commitStatus_tp (s : State) : (commitStatus s).tp = s.tp := rfl
@[simp] theorem commitStatus_rc (s : State) : (commitStatus s).rc = s.rc := rfl
@[simp] theorem commitStatus_cs (s : State) : (commitStatus s).cs = s.cs := rfl
@[simp] theorem commitStatus_dc (s : State) : (commitStatus s).dc = s.dc := rfl
@[simp] theorem commitStatus_rst (s : State) : (commitStatus s).rst = s.rst := rfl
@[simp] theorem commitStatus_csOut (s : State) : (commitStatus s).csOut = s.csOut := rfl
@[simp] theorem commitStatus_dcOut (s : State) : (commitStatus s).dcOut = s.dcOut := rfl
@[simp] theorem commitStatus_rstOut (s : State) : (commitStatus s).rstOut = s.rstOut := rfl
@[simp] theorem commitStatus_initialised (s : State) : (commitStatus s).initialised = s.initialised := rfl
@[simp] theorem commitStatus_fault (s : State) : (commitStatus s).fault = s.fault := rfl
@[simp] theorem commitStatus_status (s : State) : (commitStatus s).status = s.drawStatus.getD s.status := rfl
@[simp] theorem commitStatus_drawStatus (s : State) : (commitStatus s).drawStatus = none := rfl
@[simp] theorem commitStatus_hist (s : State) : (commitStatus s).hist = s.hist := rfl
@[simp] theorem commitStatus_phase (s : State) : (commitStatus s).phase = s.phase := rfl
@[simp] theorem commitStatus_stuck (s : State) : (commitStatus s).stuck = s.stuck := rfl
@[simp] theorem commitStatus_host (s : State) : (commitStatus s).host = s.host := rfl
@[simp] theorem commitStatus_busLeft (s : State) : (commitStatus s).busLeft = s.busLeft := rfl

/-! `raise` -/

@[simp] theorem raise_params (c : Cause) (s : State) : ((raise c s).state).params = s.params := rfl
@[simp] theorem raise_cursorX (c : Cause) (s : State) : ((raise c s).state).cursorX = s.cursorX := rfl
@[simp] theorem raise_cursorY (c : Cause) (s : State) : ((raise c s).state).cursorY = s.cursorY := rfl
@[simp] theorem raise_textColour (c : Cause) (s : State) : ((raise c s).state).textColour = s.textColour := rfl
@[simp] theorem raise_backgroundColour (c : Cause) (s : State) : ((raise c s).state).backgroundColour = s.backgroundColour := rfl
@[simp] theorem raise_wrap (c : Cause) (s : State) : ((raise c s).state).wrap = s.wrap := rfl
@[simp] theorem raise_tp (c : Cause) (s : State) : ((raise c s).state).tp = s.tp := rfl
@[simp] theorem raise_rc (c : Cause) (s : State) : ((raise c s).state).rc = s.rc := rfl
@[simp] theorem raise_cs (c : Cause) (s : State) : ((raise c s).state).cs = s.cs := rfl
@[simp] theorem raise_dc (c : Cause) (s : State) : ((raise c s).state).dc = s.dc := rfl
@[simp] theorem raise_rst (c : Cause) (s : State) : ((raise c s).state).rst = s.rst := rfl
@[simp] theorem raise_csOut (c : Cause) (s : State) : ((raise c s).state).csOut = s.csOut := rfl
@[simp] theorem raise_dcOut (c : Cause) (s : State) : ((raise c s).state).dcOut = s.dcOut := rfl
@[simp] theorem raise_rstOut (c : Cause) (s : State) : ((raise c s).state).rstOut = s.rstOut := rfl
@[simp] theorem raise_initialised (c : Cause) (s : State) : ((raise c s).state).initialised = s.initialised := rfl
@[simp] theorem raise_fault (c : Cause) (s : State) : ((raise c s).state).fault = some c := rfl
@[simp] theorem raise_status (c : Cause) (s : State) : ((raise c s).state).status = s.status := rfl
@[simp] theorem raise_drawStatus (c : Cause) (s : State) : ((raise c s).state).drawStatus = s.drawStatus := rfl
@[simp] theorem raise_hist (c : Cause) (s : State) : ((raise c s).state).hist = s.hist := rfl
@[simp] theorem raise_phase (c : Cause) (s : State) : ((raise c s).state).phase = .idle := rfl
@[simp] theorem raise_stuck (c : Cause) (s : State) : ((raise c s).state).stuck = s.stuck := rfl
@[simp] theorem raise_host (c : Cause) (s : State) : ((raise c s).state).host = s.host := rfl
@[simp] theorem raise_busLeft (c : Cause) (s : State) : ((raise c s).state).busLeft = s.busLeft := rfl

/-! `hang` -/

@[simp] theorem hang_params (b : Byte) (s : State) : ((hang b s).state).params = s.params := rfl
@[simp] theorem hang_cursorX (b : Byte) (s : State) : ((hang b s).state).cursorX = s.cursorX := rfl
@[simp] theorem hang_cursorY (b : Byte) (s : State) : ((hang b s).state).cursorY = s.cursorY := rfl
@[simp] theorem hang_textColour (b : Byte) (s : State) : ((hang b s).state).textColour = s.textColour := rfl
@[simp] theorem hang_backgroundColour (b : Byte) (s : State) : ((hang b s).state).backgroundColour = s.backgroundColour := rfl
@[simp] theorem hang_wrap (b : Byte) (s : State) : ((hang b s).state).wrap = s.wrap := rfl
@[simp] theorem hang_tp (b : Byte) (s : State) : ((hang b s).state).tp = s.tp := rfl
@[simp] theorem hang_rc (b : Byte) (s : State) : ((hang b s).state).rc = s.rc := rfl
@[simp] theorem hang_cs (b : Byte) (s : State) : ((hang b s).state).cs = s.cs := rfl
@[simp] theorem hang_dc (b : Byte) (s : State) : ((hang b s).state).dc = s.dc := rfl
@[simp] theorem hang_rst (b : Byte) (s : State) : ((hang b s).state).rst = s.rst := rfl
@[simp] theorem hang_csOut (b : Byte) (s : State) : ((hang b s).state).csOut = s.csOut := rfl
@[simp] theorem hang_dcOut (b : Byte) (s : State) : ((hang b s).state).dcOut = s.dcOut := rfl
@[simp] theorem hang_rstOut (b : Byte) (s : State) : ((hang b s).state).rstOut = s.rstOut := rfl
@[simp] theorem hang_initialised (b : Byte) (s : State) : ((hang b s).state).initialised = s.initialised := rfl
@[simp] theorem hang_fault (b : Byte) (s : State) : ((hang b s).state).fault = s.fault := rfl
@[simp] theorem hang_status (b : Byte) (s : State) : ((hang b s).state).status = s.status := rfl
@[simp] theorem hang_drawStatus (b : Byte) (s : State) : ((hang b s).state).drawStatus = s.drawStatus := rfl
@[simp] theorem hang_hist (b : Byte) (s : State) : ((hang b s).state).hist = s.hist := rfl
@[simp] theorem hang_phase (b : Byte) (s : State) : ((hang b s).state).phase = s.phase := rfl
@[simp] theorem hang_stuck (b : Byte) (s : State) : ((hang b s).state).stuck = some b := rfl
@[simp] theorem hang_host (b : Byte) (s : State) : ((hang b s).state).host = s.host := rfl
@[simp] theorem hang_busLeft (b : Byte) (s : State) : ((hang b s).state).busLeft = s.busLeft := rfl

/-! `endRecord` -/

@[simp] theorem endRecord_params  (s : State) : (endRecord s).params = s.params := rfl
@[simp] theorem endRecord_cursorX  (s : State) : (endRecord s).cursorX = s.cursorX := rfl
@[simp] theorem endRecord_cursorY  (s : State) : (endRecord s).cursorY = s.cursorY := rfl
@[simp] theorem endRecord_textColour  (s : State) : (endRecord s).textColour = s.textColour := rfl
@[simp] theorem endRecord_backgroundColour  (s : State) : (endRecord s).backgroundColour = s.backgroundColour := rfl
@[simp] theorem endRecord_wrap  (s : State) : (endRecord s).wrap = s.wrap := rfl
@[simp] theorem endRecord_tp  (s : State) : (endRecord s).tp = s.tp := rfl
@[simp] theorem endRecord_rc  (s : State) : (endRecord s).rc = s.rc - 1 := rfl
@[simp] theorem endRecord_cs  (s : State) : (endRecord s).cs = s.cs := rfl
@[simp] theorem endRecord_dc  (s : State) : (endRecord s).dc = s.dc := rfl
@[simp] theorem endRecord_rst  (s : State) : (endRecord s).rst = s.rst := rfl
@[simp] theorem endRecord_csOut  (s : State) : (endRecord s).csOut = s.csOut := rfl
@[simp] theorem endRecord_dcOut  (s : State) : (endRecord s).dcOut = s.dcOut := rfl
@[simp] theorem endRecord_rstOut  (s : State) : (endRecord s).rstOut = s.rstOut := rfl
@[simp] theorem endRecord_initialised  (s : State) : (endRecord s).initialised = s.initialised := rfl
@[simp] theorem endRecord_fault  (s : State) : (endRecord s).fault = s.fault := rfl
@[simp] theorem endRecord_status  (s : State) : (endRecord s).status = s.status := rfl
@[simp] theorem endRecord_drawStatus  (s : State) : (endRecord s).drawStatus = s.drawStatus := rfl
@[simp] theorem endRecord_hist  (s : State) : (endRecord s).hist = s.hist := rfl
@[simp] theorem endRecord_phase  (s : State) : (endRecord s).phase = s.phase := rfl
@[simp] theorem endRecord_stuck  (s : State) : (endRecord s).stuck = s.stuck := rfl
@[simp] theorem endRecord_host  (s : State) : (endRecord s).host = s.host := rfl
@[simp] theorem endRecord_busLeft  (s : State) : (endRecord s).busLeft = s.busLeft := rfl

/-! `advanceTp` -/

@[simp] theorem advanceTp_params (n : Nat) (s : State) : (advanceTp n s).params = s.params := rfl
@[simp] theorem advanceTp_cursorX (n : Nat) (s : State) : (advanceTp n s).cursorX = s.cursorX := rfl
@[simp] theorem advanceTp_cursorY (n : Nat) (s : State) : (advanceTp n s).cursorY = s.cursorY := rfl
@[simp] theorem advanceTp_textColour (n : Nat) (s : State) : (advanceTp n s).textColour = s.textColour := rfl
@[simp] theorem advanceTp_backgroundColour (n : Nat) (s : State) : (advanceTp n s).backgroundColour = s.backgroundColour := rfl
@[simp] theorem advanceTp_wrap (n : Nat) (s : State) : (advanceTp n s).wrap = s.wrap := rfl
@[simp] theorem advanceTp_tp (n : Nat) (s : State) : (advanceTp n s).tp = s.tp + n := rfl
@[simp] theorem advanceTp_rc (n : Nat) (s : State) : (advanceTp n s).rc = s.rc := rfl
@[simp] theorem advanceTp_cs (n : Nat) (s : State) : (advanceTp n s).cs = s.cs := rfl
@[simp] theorem advanceTp_dc (n : Nat) (s : State) : (advanceTp n s).dc = s.dc := rfl
@[simp] theorem advanceTp_rst (n : Nat) (s : State) : (advanceTp n s).rst = s.rst := rfl
@[simp] theorem advanceTp_csOut (n : Nat) (s : State) : (advanceTp n s).csOut = s.csOut := rfl
@[simp] theorem advanceTp_dcOut (n : Nat) (s : State) : (advanceTp n s).dcOut = s.dcOut := rfl
@[simp] theorem advanceTp_rstOut (n : Nat) (s : State) : (advanceTp n s).rstOut = s.rstOut := rfl
@[simp] theorem advanceTp_initialised (n : Nat) (s : State) : (advanceTp n s).initialised = s.initialised := rfl
@[simp] theorem advanceTp_fault (n : Nat) (s : State) : (advanceTp n s).fault = s.fault := rfl
@[simp] theorem advanceTp_status (n : Nat) (s : State) : (advanceTp n s).status = s.status := rfl
@[simp] theorem advanceTp_drawStatus (n : Nat) (s : State) : (advanceTp n s).drawStatus = s.drawStatus := rfl
@[simp] theorem advanceTp_hist (n : Nat) (s : State) : (advanceTp n s).hist = s.hist := rfl
@[simp] theorem advanceTp_phase (n : Nat) (s : State) : (advanceTp n s).phase = s.phase := rfl
@[simp] theorem advanceTp_stuck (n : Nat) (s : State) : (advanceTp n s).stuck = s.stuck := rfl
@[simp] theorem advanceTp_host (n : Nat) (s : State) : (advanceTp n s).host = s.host := rfl
@[simp] theorem advanceTp_busLeft (n : Nat) (s : State) : (advanceTp n s).busLeft = s.busLeft := rfl

/-! `takeRequest` -/

@[simp] theorem takeRequest_params  (s : State) : (takeRequest s).params = s.params := rfl
@[simp] theorem takeRequest_cursorX  (s : State) : (takeRequest s).cursorX = s.cursorX := rfl
@[simp] theorem takeRequest_cursorY  (s : State) : (takeRequest s).cursorY = s.cursorY := rfl
@[simp] theorem takeRequest_textColour  (s : State) : (takeRequest s).textColour = s.textColour := rfl
@[simp] theorem takeRequest_backgroundColour  (s : State) : (takeRequest s).backgroundColour = s.backgroundColour := rfl
@[simp] theorem takeRequest_wrap  (s : State) : (takeRequest s).wrap = s.wrap := rfl
@[simp] theorem takeRequest_tp  (s : State) : (takeRequest s).tp = s.tp := rfl
@[simp] theorem takeRequest_rc  (s : State) : (takeRequest s).rc = s.rc := rfl
@[simp] theorem takeRequest_cs  (s : State) : (takeRequest s).cs = s.cs := rfl
@[simp] theorem takeRequest_dc  (s : State) : (takeRequest s).dc = s.dc := rfl
@[simp] theorem takeRequest_rst  (s : State) : (takeRequest s).rst = s.rst := rfl
@[simp] theorem takeRequest_csOut  (s : State) : (takeRequest s).csOut = s.csOut := rfl
@[simp] theorem takeRequest_dcOut  (s : State) : (takeRequest s).dcOut = s.dcOut := rfl
@[simp] theorem takeRequest_rstOut  (s : State) : (takeRequest s).rstOut = s.rstOut := rfl
@[simp] theorem takeRequest_initialised  (s : State) : (takeRequest s).initialised = s.initialised := rfl
@[simp] theorem takeRequest_fault  (s : State) : (takeRequest s).fault = s.fault := rfl
@[simp] theorem takeRequest_status  (s : State) : (takeRequest s).status = s.status := rfl
@[simp] theorem takeRequest_drawStatus  (s : State) : (takeRequest s).drawStatus = s.drawStatus := rfl
@[simp] theorem takeRequest_hist  (s : State) : (takeRequest s).hist = s.hist := rfl
@[simp] theorem takeRequest_phase  (s : State) : (takeRequest s).phase = s.phase := rfl
@[simp] theorem takeRequest_stuck  (s : State) : (takeRequest s).stuck = s.stuck := rfl
@[simp] theorem takeRequest_host  (s : State) : (takeRequest s).host = s.host.tail := rfl
@[simp] theorem takeRequest_busLeft  (s : State) : (takeRequest s).busLeft = s.busLeft := rfl

/-! `setLevel` -/

@[simp] theorem setLevel_params (l : Line) (v : Bool) (s : State) : (setLevel l v s).params = s.params := by cases l <;> rfl
@[simp] theorem setLevel_cursorX (l : Line) (v : Bool) (s : State) : (setLevel l v s).cursorX = s.cursorX := by cases l <;> rfl
@[simp] theorem setLevel_cursorY (l : Line) (v : Bool) (s : State) : (setLevel l v s).cursorY = s.cursorY := by cases l <;> rfl
@[simp] theorem setLevel_textColour (l : Line) (v : Bool) (s : State) : (setLevel l v s).textColour = s.textColour := by cases l <;> rfl
@[simp] theorem setLevel_backgroundColour (l : Line) (v : Bool) (s : State) : (setLevel l v s).backgroundColour = s.backgroundColour := by cases l <;> rfl
@[simp] theorem setLevel_wrap (l : Line) (v : Bool) (s : State) : (setLevel l v s).wrap = s.wrap := by cases l <;> rfl
@[simp] theorem setLevel_tp (l : Line) (v : Bool) (s : State) : (setLevel l v s).tp = s.tp := by cases l <;> rfl
@[simp] theorem setLevel_rc (l : Line) (v : Bool) (s : State) : (setLevel l v s).rc = s.rc := by cases l <;> rfl
@[simp] theorem setLevel_csOut (l : Line) (v : Bool) (s : State) : (setLevel l v s).csOut = s.csOut := by cases l <;> rfl
@[simp] theorem setLevel_dcOut (l : Line) (v : Bool) (s : State) : (setLevel l v s).dcOut = s.dcOut := by cases l <;> rfl
@[simp] theorem setLevel_rstOut (l : Line) (v : Bool) (s : State) : (setLevel l v s).rstOut = s.rstOut := by cases l <;> rfl
@[simp] theorem setLevel_initialised (l : Line) (v : Bool) (s : State) : (setLevel l v s).initialised = s.initialised := by cases l <;> rfl
@[simp] theorem setLevel_fault (l : Line) (v : Bool) (s : State) : (setLevel l v s).fault = s.fault := by cases l <;> rfl
@[simp] theorem setLevel_status (l : Line) (v : Bool) (s : State) : (setLevel l v s).status = s.status := by cases l <;> rfl
@[simp] theorem setLevel_drawStatus (l : Line) (v : Bool) (s : State) : (setLevel l v s).drawStatus = s.drawStatus := by cases l <;> rfl
@[simp] theorem setLevel_hist (l : Line) (v : Bool) (s : State) : (setLevel l v s).hist = s.hist := by cases l <;> rfl
@[simp] theorem setLevel_phase (l : Line) (v : Bool) (s : State) : (setLevel l v s).phase = s.phase := by cases l <;> rfl
@[simp] theorem setLevel_stuck (l : Line) (v : Bool) (s : State) : (setLevel l v s).stuck = s.stuck := by cases l <;> rfl
@[simp] theorem setLevel_host (l : Line) (v : Bool) (s : State) : (setLevel l v s).host = s.host := by cases l <;> rfl
@[simp] theorem setLevel_busLeft (l : Line) (v : Bool) (s : State) : (setLevel l v s).busLeft = s.busLeft := by cases l <;> rfl
@[simp] theorem setLevel_cs_cs (v : Bool) (s : State) : (setLevel .cs v s).cs = v := rfl
@[simp] theorem setLevel_cs_dc (v : Bool) (s : State) : (setLevel .cs v s).dc = s.dc := rfl
@[simp] theorem setLevel_cs_rst (v : Bool) (s : State) : (setLevel .cs v s).rst = s.rst := rfl
@[simp] theorem setLevel_dc_cs (v : Bool) (s : State) : (setLevel .dc v s).cs = s.cs := rfl
@[simp] theorem setLevel_dc_dc (v : Bool) (s : State) : (setLevel .dc v s).dc = v := rfl
@[simp] theorem setLevel_dc_rst (v : Bool) (s : State) : (setLevel .dc v s).rst = s.rst := rfl
@[simp] theorem setLevel_rst_cs (v : Bool) (s : State) : (setLevel .rst v s).cs = s.cs := rfl
@[simp] theorem setLevel_rst_dc (v : Bool) (s : State) : (setLevel .rst v s).dc = s.dc := rfl
@[simp] theorem setLevel_rst_rst (v : Bool) (s : State) : (setLevel .rst v s).rst = v := rfl

/-! `setOutput` -/

@[simp] theorem setOutput_params (l : Line) (s : State) : (setOutput l s).params = s.params := by cases l <;> rfl
@[simp] theorem setOutput_cursorX (l : Line) (s : State) : (setOutput l s).cursorX = s.cursorX := by cases l <;> rfl
@[simp] theorem setOutput_cursorY (l : Line) (s : State) : (setOutput l s).cursorY = s.cursorY := by cases l <;> rfl
@[simp] theorem setOutput_textColour (l : Line) (s : State) : (setOutput l s).textColour = s.textColour := by cases l <;> rfl
@[simp] theorem setOutput_backgroundColour (l : Line) (s : State) : (setOutput l s).backgroundColour = s.backgroundColour := by cases l <;> rfl
@[simp] theorem setOutput_wrap (l : Line) (s : State) : (setOutput l s).wrap = s.wrap := by cases l <;> rfl
@[simp] theorem setOutput_tp (l : Line) (s : State) : (setOutput l s).tp = s.tp := by cases l <;> rfl
@[simp] theorem setOutput_rc (l : Line) (s : State) : (setOutput l s).rc = s.rc := by cases l <;> rfl
@[simp] theorem setOutput_cs (l : Line) (s : State) : (setOutput l s).cs = s.cs := by cases l <;> rfl
@[simp] theorem setOutput_dc (l : Line) (s : State) : (setOutput l s).dc = s.dc := by cases l <;> rfl
@[simp] theorem setOutput_rst (l : Line) (s : State) : (setOutput l s).rst = s.rst := by cases l <;> rfl
@[simp] theorem setOutput_initialised (l : Line) (s : State) : (setOutput l s).initialised = s.initialised := by cases l <;> rfl
@[simp] theorem setOutput_fault (l : Line) (s : State) : (setOutput l s).fault = s.fault := by cases l <;> rfl
@[simp] theorem setOutput_status (l : Line) (s : State) : (setOutput l s).status = s.status := by cases l <;> rfl
@[simp] theorem setOutput_drawStatus (l : Line) (s : State) : (setOutput l s).drawStatus = s.drawStatus := by cases l <;> rfl
@[simp] theorem setOutput_hist (l : Line) (s : State) : (setOutput l s).hist = s.hist := by cases l <;> rfl
@[simp] theorem setOutput_phase (l : Line) (s : State) : (setOutput l s).phase = s.phase := by cases l <;> rfl
@[simp] theorem setOutput_stuck (l : Line) (s : State) : (setOutput l s).stuck = s.stuck := by cases l <;> rfl
@[simp] theorem setOutput_host (l : Line) (s : State) : (setOutput l s).host = s.host := by cases l <;> rfl
@[simp] theorem setOutput_busLeft (l : Line) (s : State) : (setOutput l s).busLeft = s.busLeft := by cases l <;> rfl
@[simp] theorem setOutput_cs_csOut (s : State) : (setOutput .cs s).csOut = true := rfl
@[simp] theorem setOutput_cs_dcOut (s : State) : (setOutput .cs s).dcOut = s.dcOut := rfl
@[simp] theorem setOutput_cs_rstOut (s : State) : (setOutput .cs s).rstOut = s.rstOut := rfl
@[simp] theorem setOutput_dc_csOut (s : State) : (setOutput .dc s).csOut = s.csOut := rfl
@[simp] theorem setOutput_dc_dcOut (s : State) : (setOutput .dc s).dcOut = true := rfl
@[simp] theorem setOutput_dc_rstOut (s : State) : (setOutput .dc s).rstOut = s.rstOut := rfl
@[simp] theorem setOutput_rst_csOut (s : State) : (setOutput .rst s).csOut = s.csOut := rfl
@[simp] theorem setOutput_rst_dcOut (s : State) : (setOutput .rst s).dcOut = s.dcOut := rfl
@[simp] theorem setOutput_rst_rstOut (s : State) : (setOutput .rst s).rstOut = true := rfl

end Sys2Proof.Machine
end

