-- ==== Sys2Proof/Laws/Bus.lean ====
section
/-! SUPPORT. The bus micro-operations, once: what each leaves when the peripheral completes its bytes, and what each can touch at
all, however it ends. Later proofs cite these instead of unfolding the micro-operations. -/

namespace Sys2Proof.Machine

/-! ## How a sequence ends -/

theorem Progress.andThen_assoc (a : Progress) (f g : State → Progress) :
    (a.andThen f).andThen g = a.andThen fun s => (f s).andThen g := by cases a <;> rfl

/-! ## The oracle -/

@[simp] theorem busSpend_zero (o : Option Nat) : busSpend 0 o = o := by cases o <;> rfl

theorem busSpend_add (j k : Nat) (o : Option Nat) : busSpend k (busSpend j o) = busSpend (j + k) o := by
  cases o with
  | none => rfl
  | some n => simp only [busSpend, Nat.sub_sub]

theorem busCompletes_add (j k : Nat) (o : Option Nat) :
    busCompletes (j + k) o = true ↔ busCompletes j o = true ∧ busCompletes k (busSpend j o) = true := by
  cases o with
  | none => simp [busCompletes, busSpend]
  | some n => simp only [busCompletes, busSpend, decide_eq_true_eq]; omega

/-! ## What each micro-operation leaves when its bytes complete -/

/-- s after k completed bytes that left the lines at these levels and appended these events. -/
def afterBus (cs dc : Bool) (es : List Event) (k : Nat) (s : State) : State :=
  { s with cs := cs, dc := dc, hist := s.hist ++ es, busLeft := busSpend k s.busLeft }

@[simp] theorem afterBus_params (cs dc : Bool) (es : List Event) (k : Nat) (s : State) :
    (afterBus cs dc es k s).params = s.params := rfl
@[simp] theorem afterBus_initialised (cs dc : Bool) (es : List Event) (k : Nat) (s : State) :
    (afterBus cs dc es k s).initialised = s.initialised := rfl
@[simp] theorem afterBus_cs (cs dc : Bool) (es : List Event) (k : Nat) (s : State) : (afterBus cs dc es k s).cs = cs := rfl
@[simp] theorem afterBus_dc (cs dc : Bool) (es : List Event) (k : Nat) (s : State) : (afterBus cs dc es k s).dc = dc := rfl
@[simp] theorem afterBus_busLeft (cs dc : Bool) (es : List Event) (k : Nat) (s : State) :
    (afterBus cs dc es k s).busLeft = busSpend k s.busLeft := rfl

theorem afterBus_afterBus (cs dc cs' dc' : Bool) (es es' : List Event) (j k : Nat) (s : State) :
    afterBus cs' dc' es' k (afterBus cs dc es j s) = afterBus cs' dc' (es ++ es') (j + k) s := by
  simp only [afterBus, List.append_assoc, busSpend_add]

theorem busWrite_done (b : Byte) (s : State) (hi : s.initialised = true) (hb : busCompletes 1 s.busLeft = true) :
    busWrite b s = .done (afterBus s.cs s.dc [.byte b] 1 s) := by
  unfold busWrite
  rw [if_neg (by simp [hi]), if_neg (by intro h; rw [h] at hb; simp [busCompletes] at hb)]
  cases h : s.busLeft <;> simp [afterBus, emit, busSpendOne, busSpend, h]

theorem sendCommand_done (b : Byte) (s : State) (hi : s.initialised = true) (hb : busCompletes 1 s.busLeft = true) :
    sendCommand b s = .done (afterBus true false (commandEvents b) 1 s) := by
  unfold sendCommand
  rw [if_neg (by simp [hi]), busWrite_done _ _ (by simpa [driveLine_eq] using hi) (by simpa [driveLine_eq] using hb)]
  simp [afterBus, commandEvents, driveLine, emit, setLevel]

theorem sendData_done (b : Byte) (s : State) (hi : s.initialised = true) (hb : busCompletes 1 s.busLeft = true) :
    sendData b s = .done (afterBus true true (dataEvents b) 1 s) := by
  unfold sendData
  rw [if_neg (by simp [hi]), busWrite_done _ _ (by simpa [driveLine_eq] using hi) (by simpa [driveLine_eq] using hb)]
  simp [afterBus, dataEvents, driveLine, emit, setLevel]

theorem openBurst_done (s : State) (hi : s.initialised = true) :
    openBurst s = .done (afterBus false true [.line .dc true, .line .cs false] 0 s) := by
  unfold openBurst
  rw [if_neg (by simp [hi])]
  simp [afterBus, driveLine, emit, setLevel]

theorem burstSample_done (v : Colour) (s : State) (hi : s.initialised = true) (hb : busCompletes 2 s.busLeft = true) :
    burstSample v s = .done (afterBus s.cs s.dc [.byte (hi8 v), .byte (lo8 v)] 2 s) := by
  obtain ⟨h1, h2⟩ := (busCompletes_add 1 1 _).1 hb
  rw [burstSample, busWrite_done _ _ hi h1, Progress.andThen_done, busWrite_done _ (afterBus _ _ _ _ _) hi h2, afterBus_afterBus]
  rfl

theorem burstSamples_done (vs : List Colour) (s : State) (hi : s.initialised = true)
    (hb : busCompletes (2 * vs.length) s.busLeft = true) :
    burstSamples vs s = .done (afterBus s.cs s.dc (sampleEvents vs) (2 * vs.length) s) := by
  induction vs generalizing s with
  | nil => simp [burstSamples, afterBus, sampleEvents]
  | cons v vs ih =>
    rw [show 2 * (v :: vs).length = 2 + 2 * vs.length by simp; omega] at hb ⊢
    obtain ⟨h1, h2⟩ := (busCompletes_add _ _ _).1 hb
    rw [burstSamples, burstSample_done v s hi h1, Progress.andThen_done, ih (afterBus _ _ _ _ _) hi h2, afterBus_afterBus]
    rfl

theorem send16_done (c : Int) (s : State) (hi : s.initialised = true) (hb : busCompletes 2 s.busLeft = true) :
    send16 c s = .done (afterBus true true (wordEvents c) 2 s) := by
  obtain ⟨h1, h2⟩ := (busCompletes_add 1 1 _).1 hb
  rw [send16, sendData_done _ _ hi h1, Progress.andThen_done, sendData_done _ (afterBus _ _ _ _ _) hi h2, afterBus_afterBus]
  rfl

theorem setAddressingWindow_done (x0 y0 x1 y1 : Int) (s : State) (hi : s.initialised = true)
    (hb : busCompletes 11 s.busLeft = true) :
    setAddressingWindow x0 y0 x1 y1 s = .done (afterBus false true (windowEvents s.params x0 y0 x1 y1) 11 s) := by
  have hk : ∀ j k, j + k ≤ 11 → busCompletes k (busSpend j s.busLeft) = true := by
    intro j k h
    cases hs : s.busLeft with
    | none => rfl
    | some n => simp only [hs, busCompletes, busSpend, decide_eq_true_eq] at hb ⊢; omega
  have h0 : busCompletes 1 s.busLeft = true := by simpa using hk 0 1 (by omega)
  simp [setAddressingWindow, sendCommand_done, send16_done, openBurst_done, hi, h0, hk, afterBus_afterBus, windowEvents]

theorem sendArguments_done (args : List Byte) (s : State) (hi : s.initialised = true)
    (hb : busCompletes args.length s.busLeft = true) :
    sendArguments args s = .done { s with
      tp := s.tp + args.length, cs := if args.isEmpty then s.cs else true, dc := if args.isEmpty then s.dc else true,
      hist := s.hist ++ args.flatMap dataEvents, busLeft := busSpend args.length s.busLeft } := by
  induction args generalizing s with
  | nil => simp [sendArguments]
  | cons a args ih =>
    rw [show (a :: args).length = 1 + args.length by simp; omega] at hb ⊢
    obtain ⟨h1, h2⟩ := (busCompletes_add _ _ _).1 hb
    rw [sendArguments, sendData_done a (advanceTp 1 s) hi h1, Progress.andThen_done,
      ih (afterBus _ _ _ _ (advanceTp 1 s)) hi h2]
    cases args <;> simp [afterBus, advanceTp, busSpend_add, Nat.add_assoc]

/-- A record without its delay, when every byte of it completes. -/
theorem recordBody_done (cmd : Byte) (args : List Byte) (s : State) (hi : s.initialised = true)
    (hb : busCompletes (1 + args.length) s.busLeft = true) :
    recordBody cmd args s = .done { s with
      tp := s.tp + 2 + args.length, cs := true, dc := recordDc args,
      hist := s.hist ++ commandEvents cmd ++ args.flatMap dataEvents, busLeft := busSpend (1 + args.length) s.busLeft } := by
  obtain ⟨h1, h2⟩ := (busCompletes_add _ _ _).1 hb
  rw [recordBody, sendCommand_done cmd (advanceTp 2 s) hi h1, Progress.andThen_done,
    sendArguments_done args (afterBus _ _ _ _ (advanceTp 2 s)) hi h2]
  cases args <;> simp [afterBus, advanceTp, busSpend_add, recordDc]

/-! ## Reading the table -/

theorem readTable_byte {k : Byte → State → Progress} {s : State} {b : Byte} (h : s.params.initTable[s.tp]? = some b) :
    readTable k s = k b (advanceTp 1 s) := by simp [readTable, tableRead, h]

theorem readTable_end {k : Byte → State → Progress} {s : State} (h : s.params.initTable.length ≤ s.tp) :
    readTable k s = raise (.decodeError s.tp) s := by simp [readTable, tableRead, List.getElem?_eq_none h]

/-! ## What a micro-operation can touch -/

/-- t differs from s at most in what a bus micro-operation may change: the levels of CS and DC, a longer history, the oracle, and
how the operation in progress ended. -/
def BusFrame (s t : State) : Prop :=
  s.hist <+: t.hist ∧
    t = { s with
      cs := t.cs, dc := t.dc, hist := t.hist, busLeft := t.busLeft, fault := t.fault, phase := t.phase, stuck := t.stuck }

theorem BusFrame.refl (s : State) : BusFrame s s := ⟨List.prefix_refl _, rfl⟩

theorem BusFrame.trans {s t u : State} (h : BusFrame s t) (h' : BusFrame t u) : BusFrame s u := by
  refine ⟨h.1.trans h'.1, ?_⟩
  have h2 := h'.2
  rw [h.2] at h2
  exact h2

theorem BusFrame.emit (e : Event) (s : State) : BusFrame s (emit e s) := ⟨List.prefix_append _ _, rfl⟩

theorem BusFrame.driveCs (v : Bool) (s : State) : BusFrame s (driveLine .cs v s) := ⟨List.prefix_append _ _, rfl⟩

theorem BusFrame.driveDc (v : Bool) (s : State) : BusFrame s (driveLine .dc v s) := ⟨List.prefix_append _ _, rfl⟩

theorem BusFrame.raise (c : Cause) (s : State) : BusFrame s (raise c s).state := ⟨List.prefix_refl _, rfl⟩

theorem BusFrame.hang (b : Byte) (s : State) : BusFrame s (hang b s).state := ⟨List.prefix_refl _, rfl⟩

theorem BusFrame.andThen {s : State} {a : Progress} {f : State → Progress} (ha : BusFrame s a.state)
    (hf : ∀ t, BusFrame t (f t).state) : BusFrame s (a.andThen f).state := by
  cases a with
  | done t => exact ha.trans (hf t)
  | halted t => exact ha

theorem busWrite_frame (b : Byte) (s : State) : BusFrame s (busWrite b s).state := by
  unfold busWrite
  split
  · exact .raise _ _
  · split
    · split
      · exact .hang _ _
      · exact .raise _ _
    · exact ⟨List.prefix_append _ _, rfl⟩

theorem sendCommand_frame (b : Byte) (s : State) : BusFrame s (sendCommand b s).state := by
  unfold sendCommand
  split
  · exact .raise _ _
  · exact .andThen (((BusFrame.driveDc _ _).trans (.driveCs _ _)).trans (busWrite_frame _ _)) fun t => .driveCs _ _

theorem sendData_frame (b : Byte) (s : State) : BusFrame s (sendData b s).state := by
  unfold sendData
  split
  · exact .raise _ _
  · exact .andThen (((BusFrame.driveDc _ _).trans (.driveCs _ _)).trans (busWrite_frame _ _)) fun t => .driveCs _ _

theorem openBurst_frame (s : State) : BusFrame s (openBurst s).state := by
  unfold openBurst
  split
  · exact .raise _ _
  · exact (BusFrame.driveDc _ _).trans (.driveCs _ _)

theorem burstSamples_frame (vs : List Colour) (s : State) : BusFrame s (burstSamples vs s).state := by
  induction vs generalizing s with
  | nil => exact .refl s
  | cons v vs ih => exact .andThen (.andThen (busWrite_frame _ _) fun t => busWrite_frame _ _) ih

theorem send16_frame (c : Int) (s : State) : BusFrame s (send16 c s).state :=
  .andThen (sendData_frame _ _) fun _ => sendData_frame _ _

theorem setAddressingWindow_frame (x0 y0 x1 y1 : Int) (s : State) :
    BusFrame s (setAddressingWindow x0 y0 x1 y1 s).state :=
  .andThen (sendCommand_frame _ _) fun _ => .andThen (send16_frame _ _) fun _ => .andThen (send16_frame _ _) fun _ =>
    .andThen (sendCommand_frame _ _) fun _ => .andThen (send16_frame _ _) fun _ => .andThen (send16_frame _ _) fun _ =>
    .andThen (sendCommand_frame _ _) fun _ => openBurst_frame _

end Sys2Proof.Machine
end

