-- ==== Sys2Proof/Laws/Decode.lean ====
section
/-! SUPPORT. The byte operations of the codec, once: the byte split of a 16-bit operand and the fields of a record's count byte. -/

namespace Sys2Proof

@[simp] theorem hi8_joinBytes (hi lo : Byte) : hi8 (joinBytes hi lo) = hi := by
  apply BitVec.eq_of_getLsbD_eq
  intro i hlt
  simp only [hi8, joinBytes, BitVec.getLsbD_extractLsb', BitVec.getLsbD_append]
  simp [hlt]

@[simp] theorem lo8_joinBytes (hi lo : Byte) : lo8 (joinBytes hi lo) = lo := by
  apply BitVec.eq_of_getLsbD_eq
  intro i hlt
  simp only [lo8, joinBytes, BitVec.getLsbD_extractLsb', BitVec.getLsbD_append]
  simp [hlt]

@[simp] theorem joinBytes_hi8_lo8 (v : BitVec 16) : joinBytes (hi8 v) (lo8 v) = v := by
  apply BitVec.eq_of_getLsbD_eq
  intro i hi
  simp only [hi8, lo8, joinBytes, BitVec.getLsbD_append, BitVec.getLsbD_extractLsb']
  by_cases h : i < 8
  · simp [h]
  · simp [h, show i - 8 < 8 by omega, show 8 + (i - 8) = i by omega]

theorem joinBytes_toNat (hi lo : Byte) : (joinBytes hi lo).toNat = hi.toNat * 256 + lo.toNat := by
  have hlo := lo.isLt
  rw [joinBytes, BitVec.toNat_append, Nat.shiftLeft_eq, Nat.mul_comm, ← Nat.two_pow_add_eq_or_of_lt hlo]

theorem argCount_eq_mod (b : Byte) : argCount b = b.toNat % 128 := by simp [argCount, BitVec.extractLsb'_toNat]

theorem delayFlag_iff_le (b : Byte) : delayFlag b = true ↔ 128 ≤ b.toNat := by revert b; decide

theorem argCount_countByte (dly : Bool) (n : Nat) (h : n ≤ 127) : argCount (countByte dly n) = n := by
  rw [argCount_eq_mod]
  cases dly <;> simp [countByte] <;> omega

theorem delayFlag_countByte (dly : Bool) (n : Nat) (h : n ≤ 127) : delayFlag (countByte dly n) = dly := by
  cases dly
  · rw [Bool.eq_false_iff, ne_eq, delayFlag_iff_le]
    simp [countByte]
    omega
  · rw [delayFlag_iff_le]
    simp [countByte]
    omega

/-- A count byte is nothing but its two fields. -/
theorem countByte_fields (b : Byte) : countByte (delayFlag b) (argCount b) = b := by
  apply BitVec.eq_of_toNat_eq
  rw [argCount_eq_mod]
  have hd := delayFlag_iff_le b
  have hb := b.isLt
  cases h : delayFlag b <;> simp [h, countByte] at hd ⊢ <;> omega

end Sys2Proof
end

