-- ==== Sys2Proof/Laws/Operands.lean ====
section
/-! SUPPORT. Coordinates and the checked write, once. -/

namespace Sys2Proof.Machine

theorem le_coord (w : Word) : -32768 ≤ w.toInt := by simpa using BitVec.le_toInt w

theorem coord_le (w : Word) : w.toInt ≤ 32767 := by
  have h := BitVec.toInt_lt (x := w)
  simp at h
  omega

theorem inCoord_iff (v : Int) : inCoord v = true ↔ -32768 ≤ v ∧ v ≤ 32767 := by simp [inCoord]

/-- The 16-bit pattern of a coordinate stands for it. -/
theorem toInt_u16 {v : Int} (h : inCoord v = true) : (u16 v).toInt = v := by
  rw [inCoord_iff] at h
  simp only [u16, BitVec.toInt_ofInt, Int.bmod_def]
  norm_num
  split_ifs <;> omega

theorem putCoord_fits {v : Int} {write : Word → State → State} {s : State} (h : inCoord v = true) :
    putCoord v write s = .done (write (u16 v) s) := by simp [putCoord, h]

theorem putCoord_overflows {v : Int} {write : Word → State → State} {s : State} (h : inCoord v = false) :
    putCoord v write s = raise .coordOverflow s := by simp [putCoord, h]

end Sys2Proof.Machine
end

