-- ==== Sys2Proof/Laws/Drawing.lean ====
section
/-! SUPPORT. The shared pieces of drawing and bring-up, once: their conditions in plain arithmetic, and what each leaves when the
peripheral completes its bytes. -/

namespace Sys2Proof.Machine

theorem boxOutside_iff (p : Params) (x y : Int) :
    boxOutside p x y (x + p.textWidth - 1) (y + p.textHeight - 1) = true ↔ CellOutside p x y := by
  simp [boxOutside, CellOutside]

theorem glyphStatus_cell (p : Params) (x y : Int) :
    glyphStatus p x y (x + p.textWidth - 1) (y + p.textHeight - 1) = if CellInside p x y then .ok else .clippedPartial := by
  simp [glyphStatus, CellInside]

theorem inCoord_of_fits {p : Params} {x y : Int} (h : ¬ CellOutside p x y) (hf : CellFits p x y) :
    inCoord (x + p.textWidth - 1) = true ∧ inCoord (y + p.textHeight - 1) = true := by
  simp only [CellOutside] at h
  simp only [CellFits] at hf
  simp only [inCoord_iff]
  omega

theorem glyphSamples_length (p : Params) (code : Byte) (fg bg : Colour) :
    (glyphSamples p code fg bg).length = p.textWidth * p.textHeight := by
  simp [glyphSamples, expandGlyph, List.length_flatMap]

theorem sampleEvents_replicate (n : Nat) (c : Colour) :
    sampleEvents (List.replicate n c) = (List.replicate n [Event.byte (hi8 c), Event.byte (lo8 c)]).flatten := by
  simp [sampleEvents, List.flatMap]

theorem clampAt_eq_min (n : Nat) (o e : Int) : clampAt n o e = min e ((n : Int) - 1 - o) := by
  unfold clampAt clipsAt
  simp only [decide_eq_true_eq]
  split_ifs <;> omega

theorem clipsAt_iff (n : Nat) (o e : Int) : clipsAt n o e = true ↔ min e ((n : Int) - 1 - o) < e := by
  unfold clipsAt
  simp only [decide_eq_true_eq]
  omega

theorem cellStatus_eq (p : Params) (x y : Int) :
    cellStatus p x y = if CellOutside p x y then .outOfBounds else if CellInside p x y then .ok else .clippedPartial := by
  simp only [cellStatus, glyphStatus_cell]
  by_cases h : CellOutside p x y
  · rw [if_pos ((boxOutside_iff p x y).2 h), if_pos h]
  · rw [if_neg (mt (boxOutside_iff p x y).1 h), if_neg h]

theorem drawCell_outside (x y : Int) (code : Byte) (fg bg : Colour) (s : State) (h : CellOutside s.params x y) :
    drawCell x y code fg bg s = .done s := by rw [drawCell, if_pos ((boxOutside_iff _ _ _).2 h)]

theorem drawCell_meets (x y : Int) (code : Byte) (fg bg : Colour) (s : State) (h : ¬ CellOutside s.params x y) :
    drawCell x y code fg bg s = blitGlyph x y code fg bg s := by rw [drawCell, if_neg (mt (boxOutside_iff _ _ _).1 h)]

/-- What a blit leaves when every byte completes. -/
theorem blitGlyph_done (x y : Int) (code : Byte) (fg bg : Colour) (s : State) (hi : s.initialised = true)
    (hx : inCoord (x + s.params.textWidth - 1) = true) (hy : inCoord (y + s.params.textHeight - 1) = true)
    (hb : busCompletes (glyphBytes s.params) s.busLeft = true) :
    blitGlyph x y code fg bg s =
      .done (afterBus true true (drawEvents s.params x y (x + s.params.textWidth - 1) (y + s.params.textHeight - 1)
        (glyphSamples s.params code fg bg)) (glyphBytes s.params) s) := by
  have hl := glyphSamples_length s.params code fg bg
  unfold blitGlyph
  simp only [hx, hy, Bool.and_self, if_true]
  rw [glyphBytes, ← hl] at hb
  obtain ⟨h1, h2⟩ := (busCompletes_add _ _ _).1 hb
  rw [setAddressingWindow_done _ _ _ _ s hi h1, Progress.andThen_done]
  change ((burstSamples (glyphSamples s.params code fg bg) _).andThen _) = _
  rw [burstSamples_done _ (afterBus _ _ _ _ s) hi h2, Progress.andThen_done, afterBus_afterBus, glyphBytes, ← hl]
  simp [closeBurst, driveLine, emit, setLevel, afterBus, drawEvents]

/-- What a fill leaves when every byte completes. -/
theorem sendFill_done (x y we he : Int) (clipped : Bool) (colour : Colour) (s : State) (n : Nat) (hi : s.initialised = true)
    (hn : ((we + 1) * (he + 1)).toNat = n) (hb : busCompletes (11 + 2 * n) s.busLeft = true) :
    sendFill x y we he clipped colour s =
      .done (setStatus (fillStatus clipped)
        (afterBus true true (drawEvents s.params x y (x + we) (y + he) (List.replicate n colour)) (11 + 2 * n) s)) := by
  unfold sendFill
  rw [hn]
  obtain ⟨h1, h2⟩ := (busCompletes_add _ _ _).1 hb
  have hl : (List.replicate n colour).length = n := List.length_replicate
  rw [setAddressingWindow_done _ _ _ _ s hi h1, Progress.andThen_done,
    burstSamples_done _ (afterBus _ _ _ _ s) hi (by rw [hl]; exact h2), Progress.andThen_done, afterBus_afterBus, hl]
  simp [closeBurst, driveLine, emit, setLevel, afterBus, drawEvents, setStatus]

/-- INIT's first part in one piece. -/
theorem initBody_eq (s : State) :
    initBody s = .done { s with
      csOut := true, dcOut := true, rstOut := true, initialised := true, rst := true, tp := 0, phase := .header,
      hist := s.hist ++ bringUpEvents } := by
  simp [initBody, pulseStep, delayFor, driveLine, configureOutput, emit, setLevel, setOutput, bringUpEvents]

end Sys2Proof.Machine
end

