-- ==== Sys2Proof/Laws/Meaning.lean ====
section
/-! SUPPORT. What a meaning and a step can do, said once: every meaning is `guarded` over one piece of pseudocode, and a step is one
of nine cases. -/

namespace Sys2Proof.Machine

/-- The pseudocode of each instruction, which its meaning runs under `guarded`. -/
def body (i : Instr) : State → Progress :=
  match i with
  | .init => initBody
  | .write code => writeBody code
  | .fillRect x y w h colour => fillRectBody (coord x) (coord y) (coord w) (coord h) colour
  | .drawChar x y code fg bg => drawCharBody (coord x) (coord y) code fg bg
  | .setCursor col row => setCursorBody (coord col) (coord row)
  | .setTextColour v => fun s => .done (setStatus .ok { s with textColour := v })
  | .getTextColour => fun s => .done (setStatus .ok (respond s.textColour s))
  | .setBgColour v => fun s => .done (setStatus .ok { s with backgroundColour := v })
  | .getBgColour => fun s => .done (setStatus .ok (respond s.backgroundColour s))
  | .setTextWrap b => fun s => .done (setStatus .ok { s with wrap := wrapOperand b })
  | .getCursorX => fun s => .done (setStatus .ok (respond s.cursorX s))
  | .getCursorY => fun s => .done (setStatus .ok (respond s.cursorY s))
  | .record cmd args => fun s => (recordBody cmd args s).andThen fun s => .done (endRecord s)
  | .recordDelay cmd args d => fun s => (recordBody cmd args s).andThen fun s => .done (endRecord (takeDelay d s))
  | .tableCount n => fun s => .done { advanceTp 1 s with rc := n.toNat, phase := .records }

theorem exec_eq_guarded (i : Instr) (s : State) : exec i s = guarded (body i) s := by cases i <;> rfl

theorem guarded_ready (f : State → Progress) (s : State) (h : Ready s) : guarded f s = .next (f s).state := by
  simp [guarded, h.1, h.2]

/-- A meaning that answers a next state was dropped by a faulted engine, or ran. -/
theorem guarded_next {f : State → Progress} {s t : State} (h : guarded f s = .next t) :
    (s.stuck = none ∧ s.fault ≠ none ∧ t = s) ∨ (Ready s ∧ t = (f s).state) := by
  unfold guarded at h
  split at h
  · cases h
  · rename_i hs
    have hs : s.stuck = none := by simpa using hs
    split at h
    · rename_i hf
      cases h
      exact .inl ⟨hs, Option.isSome_iff_ne_none.1 hf, rfl⟩
    · rename_i hf
      cases h
      exact .inr ⟨⟨hs, by simpa using hf⟩, rfl⟩

theorem exec_ready (i : Instr) (s : State) (h : Ready s) : exec i s = .next (body i s).state := by
  rw [exec_eq_guarded, guarded_ready _ _ h]

theorem step_ready (s : State) (h : Ready s) :
    step s = match s.phase with
      | .idle => serveHost s
      | .header => fetchHeader s
      | .records => fetchRecord s := by
  simp only [step, cycle, h.1, h.2]
  cases s.phase <;> rfl

/-- Everything a step that answers a next state can have done. -/
theorem step_cases {s t : State} (h : step s = .next t) :
    (s.stuck = none ∧ s.fault ≠ none ∧ t = takeRequest s)
      ∨ (Ready s ∧ s.phase = .idle ∧ s.host = [] ∧ t = s)
      ∨ (Ready s ∧ s.phase = .idle ∧ ∃ frame op, s.host.head? = some frame ∧ decodeFrame frame = .error (.reservedOpcode op)
        ∧ t = setStatus .illegalOp (takeRequest s))
      ∨ (Ready s ∧ s.phase = .idle ∧ ∃ frame i, s.host.head? = some frame ∧ decodeFrame frame = .ok i
        ∧ t = (body i (takeRequest s)).state)
      ∨ (Ready s ∧ s.phase = .header ∧ ∃ n tail, s.params.initTable.drop s.tp = n :: tail ∧ t = (body (.tableCount n) s).state)
      ∨ (Ready s ∧ s.phase = .header ∧ s.params.initTable.drop s.tp = [] ∧ t = (raise (.decodeError s.tp) s).state)
      ∨ (Ready s ∧ s.phase = .records ∧ s.rc = 0 ∧ t = (finishInit s).state)
      ∨ (Ready s ∧ s.phase = .records ∧ s.rc ≠ 0 ∧ ∃ i tail, decodeRecord (s.params.initTable.drop s.tp) = .ok (i, tail)
        ∧ t = (body i s).state)
      ∨ (Ready s ∧ s.phase = .records ∧ s.rc ≠ 0 ∧ ∃ r, decodeRecord (s.params.initTable.drop s.tp) = .error r
        ∧ t = (interpretRecord s).state) := by
  by_cases hs : s.stuck = none
  · by_cases hf : s.fault = none
    · right
      have hr : Ready s := ⟨hs, hf⟩
      have ht : Ready (takeRequest s) := hr
      rw [step_ready s hr] at h
      cases hp : s.phase with
      | idle =>
        simp only [hp, serveHost] at h
        split at h
        · rename_i hh
          cases h
          exact .inl ⟨hr, rfl, hh, rfl⟩
        · rename_i frame rest hh
          have hd : s.host.head? = some frame := by rw [hh]; rfl
          simp only [serveFrame] at h
          split at h
          · rename_i i hi
            rw [exec_ready _ _ ht] at h
            cases h
            exact .inr (.inr (.inl ⟨hr, rfl, frame, i, hd, hi, rfl⟩))
          · rename_i op hop
            cases h
            exact .inr (.inl ⟨hr, rfl, frame, op, hd, hop, rfl⟩)
          · cases h
      | header =>
        simp only [hp, fetchHeader] at h
        cases hd : s.params.initTable.drop s.tp with
        | nil =>
          simp only [hd, decodeHeader] at h
          cases h
          exact .inr (.inr (.inr (.inr (.inl ⟨hr, rfl, rfl, rfl⟩))))
        | cons n tail =>
          simp only [hd, decodeHeader, exec_ready _ _ hr] at h
          cases h
          exact .inr (.inr (.inr (.inl ⟨hr, rfl, n, tail, rfl, rfl⟩)))
      | records =>
        simp only [hp, fetchRecord] at h
        split at h
        · rename_i h0
          cases h
          exact .inr (.inr (.inr (.inr (.inr (.inl ⟨hr, rfl, h0, rfl⟩)))))
        · rename_i h0
          split at h
          · rename_i i tail hi
            rw [exec_ready _ _ hr] at h
            cases h
            exact .inr (.inr (.inr (.inr (.inr (.inr (.inl ⟨hr, rfl, h0, i, tail, hi, rfl⟩))))))
          · rename_i r hi
            cases h
            exact .inr (.inr (.inr (.inr (.inr (.inr (.inr ⟨hr, rfl, h0, r, hi, rfl⟩))))))
    · left
      refine ⟨hs, hf, ?_⟩
      simp [step, cycle, hs, Option.isSome_iff_ne_none, hf] at h
      exact h.symm
  · simp [step, cycle, Option.isSome_iff_ne_none, hs] at h

end Sys2Proof.Machine
end

