-- ==== Sys2Proof/Laws/Observe.lean ====
section
/-! SUPPORT. The logical stream of a history that grows: what came before is not seen again, and what comes after is read at the
levels reached. -/

namespace Sys2Proof.Machine

theorem logicalFrom_append (cs dc : Bool) (es : List Event) :
    ∃ cs' dc', ∀ fs, logicalFrom cs dc (es ++ fs) = logicalFrom cs dc es ++ logicalFrom cs' dc' fs := by
  induction es generalizing cs dc with
  | nil => exact ⟨cs, dc, fun _ => rfl⟩
  | cons e es ih =>
    cases e with
    | dir l => simpa [logicalFrom] using ih cs dc
    | line l v =>
      cases l with
      | cs => simpa [logicalFrom] using ih v dc
      | dc => simpa [logicalFrom] using ih cs v
      | rst => simpa [logicalFrom] using ih cs dc
    | byte b => cases cs <;> cases dc <;> simpa [logicalFrom] using ih _ _
    | delay ms => simpa [logicalFrom] using ih cs dc
    | ret v => simpa [logicalFrom] using ih cs dc

end Sys2Proof.Machine
end

