-- ==== Sys2Proof/Laws/Panel.lean ====
section
/-! SUPPORT. The one memory that is written, the reference panel's: a write keeps the canonical form, reads back, and leaves every
other address alone. The engine itself has read-only memories only: TABLE and FONT are parameters. -/

namespace Sys2Proof.Machine

theorem mem_gramWrite {a : Nat} {c : Colour} {m : List (Nat × Colour)} {e : Nat × Colour} (h : e ∈ gramWrite a c m) :
    e = (a, c) ∨ e ∈ m := by
  induction m with
  | nil => simpa [gramWrite] using h
  | cons x m ih =>
    obtain ⟨a', c'⟩ := x
    simp only [gramWrite] at h
    split at h
    · simpa using h
    · split at h
      · simp at h ⊢
        tauto
      · simp at h ⊢
        rcases h with h | h
        · exact .inr (.inl h)
        · rcases ih h with h | h
          · exact .inl h
          · exact .inr (.inr h)

/-- A write keeps the addresses strictly rising. -/
theorem gramWrite_wf (a : Nat) (c : Colour) (m : List (Nat × Colour)) (h : gramWf m) : gramWf (gramWrite a c m) := by
  induction m with
  | nil => simp [gramWrite]
  | cons x m ih =>
    obtain ⟨a', c'⟩ := x
    obtain ⟨h1, h2⟩ := List.pairwise_cons.1 h
    simp only [gramWrite]
    split
    · rename_i hlt
      refine List.pairwise_cons.2 ⟨?_, h⟩
      rintro e he
      rcases List.mem_cons.1 he with rfl | he
      · exact hlt
      · exact hlt.trans (h1 e he)
    · split
      · rename_i he
        subst he
        exact List.pairwise_cons.2 ⟨h1, h2⟩
      · rename_i hlt hne
        refine List.pairwise_cons.2 ⟨?_, ih h2⟩
        intro e he
        rcases mem_gramWrite he with rfl | he
        · simp only
          omega
        · exact h1 e he

/-- A read after a write: the colour written, and what was there before at every other address. -/
theorem gramRead_gramWrite (a b : Nat) (c : Colour) (m : List (Nat × Colour)) :
    gramRead b (gramWrite a c m) = if b = a then some c else gramRead b m := by
  induction m with
  | nil => simp [gramWrite, gramRead]
  | cons x m ih =>
    obtain ⟨a', c'⟩ := x
    simp only [gramWrite]
    split
    · simp [gramRead]
    · split
      · rename_i he
        subst he
        by_cases hb : b = a <;> simp [gramRead, hb]
      · rename_i hlt hne
        simp only [gramRead, ih]
        by_cases hb : b = a'
        · subst hb
          simp [show ¬ b = a by omega]
        · simp [hb]

/-- A pixel of the surface is read at its address. -/
theorem Panel.pixel_inside {q : Panel} {x y : Nat} (hx : x < q.width) (hy : y < q.height) :
    q.pixel x y = gramRead (x * q.height + y) q.gram := if_pos ⟨hx, hy⟩

/-- No pixel outside the surface has a colour. -/
theorem Panel.pixel_outside {q : Panel} {x y : Nat} (h : ¬ (x < q.width ∧ y < q.height)) : q.pixel x y = none := if_neg h

/-- Two pixels of the surface with one address are one pixel. -/
theorem pixel_address_inj {n x y x' y' : Nat} (hy : y < n) (hy' : y' < n) (h : x * n + y = x' * n + y') : x = x' ∧ y = y' := by
  have hn : 0 < n := by omega
  have hx := congrArg (· / n) h
  have hr := congrArg (· % n) h
  simp only [Nat.mul_comm _ n, Nat.mul_add_div hn, Nat.mul_add_mod, Nat.div_eq_of_lt hy, Nat.div_eq_of_lt hy',
    Nat.mod_eq_of_lt hy, Nat.mod_eq_of_lt hy'] at hx hr
  omega

/-- Whatever arrives, the panel's memory keeps its canonical form. -/
theorem Panel.take_wf {q q' : Panel} {l : Logical} (h : gramWf q.gram) (ht : q.take l = some q') : gramWf q'.gram := by
  cases l with
  | cmd b =>
    simp only [Panel.take, Panel.takeCommand] at ht
    split_ifs at ht <;> (cases ht; exact h)
  | delay ms => cases ht; exact h
  | rst v => cases ht; exact h
  | data b =>
    simp only [Panel.take, Panel.takeData] at ht
    split at ht
    · cases ht; exact h
    · obtain ⟨r, -, rfl⟩ := Option.map_eq_some_iff.1 ht
      exact h
    · cases ht; exact h
    · obtain ⟨r, -, rfl⟩ := Option.map_eq_some_iff.1 ht
      exact h
    · cases ht; exact h
    · cases ht; exact h
    · simp only [Panel.takeSample] at ht
      split at ht
      · split at ht
        · cases ht
          exact gramWrite_wf _ _ _ h
        · cases ht
      · cases ht

theorem Panel.takeAll_wf {q q' : Panel} (ls : List Logical) (h : gramWf q.gram) (ht : q.takeAll ls = some q') :
    gramWf q'.gram := by
  induction ls generalizing q with
  | nil => cases ht; exact h
  | cons l ls ih =>
    simp only [Panel.takeAll] at ht
    split at ht
    · rename_i r hr
      exact ih (Panel.take_wf h hr) ht
    · cases ht

theorem Panel.blank_wf (p : Params) : gramWf (Panel.blank p).gram := List.Pairwise.nil

end Sys2Proof.Machine
end

