-- ==== Sys2Proof/Laws/PerInstr.lean ====
section
/-! SUPPORT. Statements made per instruction, one lemma per constructor. -/

/-- The family EncodedLength: an instruction's encoding is as long as 30_encoding.md R69 (host frames) and R64 (records) say. -/
def Sys2Proof.Laws.EncodedLength.Statement (i : Sys2Proof.Instr) : Prop :=
  (Sys2Proof.encode i).length = Sys2Proof.encodedLength i

theorem Sys2Proof.Laws.EncodedLength.init :
    Sys2Proof.Laws.EncodedLength.Statement .init := rfl

theorem Sys2Proof.Laws.EncodedLength.write (code : Sys2Proof.Byte) :
    Sys2Proof.Laws.EncodedLength.Statement (.write code) := rfl

theorem Sys2Proof.Laws.EncodedLength.fillRect (x y w h : Sys2Proof.Word) (colour : Sys2Proof.Colour) :
    Sys2Proof.Laws.EncodedLength.Statement (.fillRect x y w h colour) := rfl

theorem Sys2Proof.Laws.EncodedLength.drawChar (x y : Sys2Proof.Word) (code : Sys2Proof.Byte) (fg bg : Sys2Proof.Colour) :
    Sys2Proof.Laws.EncodedLength.Statement (.drawChar x y code fg bg) := rfl

theorem Sys2Proof.Laws.EncodedLength.setCursor (col row : Sys2Proof.Word) :
    Sys2Proof.Laws.EncodedLength.Statement (.setCursor col row) := rfl

theorem Sys2Proof.Laws.EncodedLength.setTextColour (v : Sys2Proof.Colour) :
    Sys2Proof.Laws.EncodedLength.Statement (.setTextColour v) := rfl

theorem Sys2Proof.Laws.EncodedLength.getTextColour :
    Sys2Proof.Laws.EncodedLength.Statement .getTextColour := rfl

theorem Sys2Proof.Laws.EncodedLength.setBgColour (v : Sys2Proof.Colour) :
    Sys2Proof.Laws.EncodedLength.Statement (.setBgColour v) := rfl

theorem Sys2Proof.Laws.EncodedLength.getBgColour :
    Sys2Proof.Laws.EncodedLength.Statement .getBgColour := rfl

theorem Sys2Proof.Laws.EncodedLength.setTextWrap (b : Sys2Proof.Byte) :
    Sys2Proof.Laws.EncodedLength.Statement (.setTextWrap b) := rfl

theorem Sys2Proof.Laws.EncodedLength.getCursorX :
    Sys2Proof.Laws.EncodedLength.Statement .getCursorX := rfl

theorem Sys2Proof.Laws.EncodedLength.getCursorY :
    Sys2Proof.Laws.EncodedLength.Statement .getCursorY := rfl

theorem Sys2Proof.Laws.EncodedLength.record (cmd : Sys2Proof.Byte) (args : List Sys2Proof.Byte) :
    Sys2Proof.Laws.EncodedLength.Statement (.record cmd args) := by
  simp [Sys2Proof.Laws.EncodedLength.Statement, Sys2Proof.encode, Sys2Proof.encodedLength, Sys2Proof.recordLength]
  omega

theorem Sys2Proof.Laws.EncodedLength.recordDelay (cmd : Sys2Proof.Byte) (args : List Sys2Proof.Byte) (delay : Sys2Proof.Byte) :
    Sys2Proof.Laws.EncodedLength.Statement (.recordDelay cmd args delay) := by
  simp [Sys2Proof.Laws.EncodedLength.Statement, Sys2Proof.encode, Sys2Proof.encodedLength, Sys2Proof.recordLength]
  omega

theorem Sys2Proof.Laws.EncodedLength.tableCount (count : Sys2Proof.Byte) :
    Sys2Proof.Laws.EncodedLength.Statement (.tableCount count) := rfl
end

