-- ==== Sys2Proof/Tests/Slice0.lean ====
section
/-! SUPPORT. The model's own tests. Expected values come from the spec's vectors (95_test_vectors.md, named V<n>) or are written out
from its encodings; then one witness for the hypotheses of each obligation, at the boundaries of its clauses. -/

namespace Sys2Proof.Machine.Tests

open Sys2Proof Sys2Proof.Machine

/-! ## Fixtures (95_test_vectors.md section 0) -/

/-- FONT_T. -/
def fontT : List (List Byte) := (List.range 98).map fun g =>
  if g = 33 then [0x03#8, 0x01#8] else if g = 34 then [0x03#8, 0x02#8] else if g = 0 ∨ g = 97 then [0x00#8, 0x00#8]
  else [0x01#8, 0x02#8]

/-- Fixture T with an init table. -/
def paramsT (table : List Byte) : Params where
  width := 8
  height := 6
  textWidth := 3
  textHeight := 2
  font := fontT
  initTable := table
  cmdColset := 0x2A#8
  cmdRowset := 0x2B#8
  cmdRamwr := 0x2C#8
  busTimeout := none
  resetTextColour := 0xFFFF#16
  resetBgColour := 0x0000#16
  resetWrap := true

/-- TBL_E, the table of V1. -/
def tableE : List Byte := [0x02#8, 0x11#8, 0x81#8, 0x78#8, 0x78#8, 0x29#8, 0x00#8]

/-- Fixture T after construction. -/
def fresh : State := State.construct (paramsT tableE) true true true none

/-- Fixture T with the lines up and an empty history. -/
def up : State := { fresh with csOut := true, dcOut := true, rstOut := true, initialised := true }

/-- `up` on a surface of another size. -/
def sized (w h : Nat) : State := { up with params := { paramsT tableE with width := w, height := h } }

/-- `up` in the middle of INIT, over a table. -/
def replaying (table : List Byte) (tp rc : Nat) : State :=
  { up with params := paramsT table, phase := .records, tp := tp, rc := rc }

/-- A field of the next state, none for a stop. -/
def nextOf {α : Type} (f : State → α) (o : Host.Outcome State Fault Refusal) : Option α :=
  match o with
  | .next t => some (f t)
  | .fault _ => none
  | .refused _ => none

/-! ## WellFormed -/

set_option maxRecDepth 4000 in
/-- The one check: 128 argument bytes do not fit a 7-bit count (30_encoding.md R60), 127 do (V19). -/
theorem test_wellFormed_refuses_128_arguments :
    (Instr.record 0x11#8 (List.replicate 128 0#8)).wellFormed = false
      ∧ (Instr.recordDelay 0x11#8 (List.replicate 128 0#8) 0#8).wellFormed = false
      ∧ (Instr.recordDelay 0xE0#8 (List.replicate 127 0#8) 0#8).wellFormed = true := by decide

/-! ## Decoding, words written out from 30_encoding.md R69, R60, R61 -/

theorem test_decode_init : decodeFrame [0x00#8] = .ok .init := by decide
theorem test_decode_write : decodeFrame [0x01#8, 0x41#8] = .ok (.write 0x41#8) := by decide
theorem test_decode_fillRect :
    decodeFrame [0x02#8, 0x00#8, 0x7E#8, 0x00#8, 0x0A#8, 0x00#8, 0x05#8, 0x00#8, 0x02#8, 0xF8#8, 0x00#8]
      = .ok (.fillRect 126#16 10#16 5#16 2#16 0xF800#16) := by decide
/-- x -5, y -7, 'A', two colours with distinct bytes. -/
theorem test_decode_drawChar :
    decodeFrame [0x03#8, 0xFF#8, 0xFB#8, 0xFF#8, 0xF9#8, 0x41#8, 0x12#8, 0x34#8, 0x56#8, 0x78#8]
      = .ok (.drawChar (BitVec.ofInt 16 (-5)) (BitVec.ofInt 16 (-7)) 0x41#8 0x1234#16 0x5678#16) := by decide
theorem test_decode_setCursor : decodeFrame [0x04#8, 0x00#8, 0x03#8, 0x00#8, 0x02#8] = .ok (.setCursor 3#16 2#16) := by decide
theorem test_decode_setTextColour : decodeFrame [0x05#8, 0xF8#8, 0x00#8] = .ok (.setTextColour 0xF800#16) := by decide
theorem test_decode_getTextColour : decodeFrame [0x06#8] = .ok .getTextColour := by decide
theorem test_decode_setBgColour : decodeFrame [0x07#8, 0x00#8, 0x1F#8] = .ok (.setBgColour 0x001F#16) := by decide
theorem test_decode_getBgColour : decodeFrame [0x08#8] = .ok .getBgColour := by decide
theorem test_decode_setTextWrap : decodeFrame [0x09#8, 0x02#8] = .ok (.setTextWrap 0x02#8) := by decide
theorem test_decode_getCursorX : decodeFrame [0x0A#8] = .ok .getCursorX := by decide
theorem test_decode_getCursorY : decodeFrame [0x0B#8] = .ok .getCursorY := by decide
/-- The second record of V1, with the bytes after it. -/
theorem test_decode_record : decodeRecord [0x29#8, 0x00#8, 0xAA#8] = .ok (.record 0x29#8 [], [0xAA#8]) := by decide
/-- The last record of V16. -/
theorem test_decode_recordDelay :
    decodeRecord [0x04#8, 0x83#8, 0x09#8, 0x08#8, 0x07#8, 0x01#8] = .ok (.recordDelay 0x04#8 [0x09#8, 0x08#8, 0x07#8] 0x01#8, [])
    := by decide
theorem test_decode_tableCount : decodeHeader tableE = .ok (.tableCount 2#8, tableE.tail) := by decide
/-- V35, and frames the spec does not define. -/
theorem test_decode_rejects_by_name :
    decodeFrame [0x0C#8] = .error (.reservedOpcode 0x0C#8) ∧ decodeFrame [0xFF#8, 0#8, 0#8] = .error (.reservedOpcode 0xFF#8)
      ∧ decodeFrame [] = .error .emptyFrame ∧ decodeFrame [0x01#8] = .error (.wrongLength 0x01#8)
      ∧ decodeRecord [0x11#8, 0x82#8, 0x01#8] = .error .truncatedRecord ∧ decodeTable [] = .error .missingCount := by decide
/-- V17 and V18: which tables are well formed. -/
theorem test_tableWf :
    tableWf [0x00#8, 0xAA#8, 0xBB#8] = true ∧ tableWf tableE = true ∧ tableWf [0x03#8, 0x29#8, 0x00#8] = false := by decide
/-- V16: the delay byte, and its assembler (30_encoding.md R77). -/
theorem test_delayMs :
    delayMs 0#8 = 0 ∧ delayMs 254#8 = 254 ∧ delayMs 255#8 = 500 ∧ encodeDelayMs 500 = some 255#8 ∧ encodeDelayMs 255 = none := by
  decide
/-- V32 and P4: `clear()` on fixture P. -/
theorem test_clearProgram :
    (clearProgram 4 6 0x07E0#16).map encode = [[0x08#8], [0x02#8, 0#8, 0#8, 0#8, 0#8, 0#8, 4#8, 0#8, 6#8, 0x07#8, 0xE0#8]] := by decide

/-! ## Words of spec/opcode_table.json, and their first step after reset -/

theorem test_table_words :
    decodeTableWord 8 0x00 = some .init ∧ decodeTableWord 16 0x4101 = some (.write 0x41#8)
      ∧ decodeTableWord 8 0x0B = some .getCursorY ∧ decodeTableWord 24 0x00F805 = some (.setTextColour 0xF800#16)
      ∧ decodeTableWord 16 0x2900 = some (.record 0x29#8 []) ∧ decodeTableWord 16 0x1182 = some (.recordDelay 0x11#8 [0#8, 0#8] 0#8)
      ∧ decodeTableWord 8 0x02 = some (.tableCount 2#8) := by decide
theorem test_first_step_runs_a_host_word : nextOf State.wrap (step (State.reset.withFetchWord 16 0x0009)) = some false := by decide
theorem test_first_step_runs_a_count : nextOf State.rc (step (State.reset.withFetchWord 8 0x02)) = some 2 := by decide
theorem test_first_step_runs_a_record : (nextOf State.params (step (State.reset.withFetchWord 16 0x2900))).isSome = true := by decide

/-! ## One step of each instruction -/

/-- INIT: P1's first nine events, and the replay begins. -/
theorem test_init :
    nextOf (fun t => (t.hist, t.tp, t.initialised, t.rst)) (exec .init fresh)
      = some ([.dir .cs, .dir .dc, .dir .rst, .line .rst true, .delay 10, .line .rst false, .delay 10, .line .rst true, .delay 10],
        0, true, true) := by decide
set_option maxRecDepth 4000 in
/-- INIT's closing fill: P1, 96 bytes after the eleven of the window. -/
theorem test_init_fill :
    nextOf (fun t => (logicalStream t.hist, t.status, t.phase)) (step (replaying tableE 7 0))
      = some ([.cmd 0x2A#8, .data 0#8, .data 0#8, .data 0#8, .data 5#8, .cmd 0x2B#8, .data 0#8, .data 0#8, .data 0#8, .data 7#8,
        .cmd 0x2C#8] ++ List.replicate 96 (.data 0#8), .ok, .idle) := by decide
/-- V29, first row. -/
theorem test_write_draws_A :
    nextOf (fun t => (logicalStream t.hist, responses t.hist, t.cursorX, t.cursorY)) (exec (.write 0x41#8) up)
      = some ([.cmd 0x2A#8, .data 0#8, .data 0#8, .data 0#8, .data 1#8, .cmd 0x2B#8, .data 0#8, .data 0#8, .data 0#8, .data 2#8,
        .cmd 0x2C#8] ++ List.replicate 6 (.data 0xFF#8) ++ List.replicate 6 (.data 0#8), [1#16], 3#16, 0#16) := by decide
/-- The wrap's row: P3, call 8, past the bottom cursorY becomes 1; and by R109 with R9 a new row of 32768 faults, cursorX 0 already
and no response. V31: the draw is a no-op, then the advance faults: the drawing's status line was executed (R149), and the outcome of
the last operation that completed is still Ok (R30). -/
theorem test_write_wraps_the_row :
    nextOf (fun t => (t.cursorX, t.cursorY, t.status, t.hist)) (exec (.write 0x41#8) { up with cursorX := 3#16, cursorY := 6#16 })
        = some (0#16, 1#16, .outOfBounds, [.ret 1#16])
      ∧ nextOf (fun t => (t.cursorX, t.cursorY, t.fault, t.hist))
          (exec (.write 0x41#8) { up with cursorX := 3#16, cursorY := 32766#16 })
        = some (0#16, 32766#16, some .coordOverflow, [])
      ∧ nextOf (fun t => (t.cursorX, t.fault, t.status, t.statusWritten)) (exec (.write 0x41#8) { up with cursorX := 32766#16 })
        = some (32766#16, some .coordOverflow, .ok, .outOfBounds) :=
  ⟨by decide, by decide, by decide⟩
/-- V28, fixture L's clamp against WIDTH: rows 4 and 5 are below the surface and the status is Ok. -/
theorem test_fillRect_clamps_height_by_width :
    nextOf (fun t => (logicalStream t.hist, t.status)) (exec (.fillRect 0#16 2#16 2#16 4#16 0xF800#16) (sized 6 4))
      = some ([.cmd 0x2A#8, .data 0#8, .data 2#8, .data 0#8, .data 5#8, .cmd 0x2B#8, .data 0#8, .data 0#8, .data 0#8, .data 1#8,
        .cmd 0x2C#8] ++ (List.replicate 8 [Logical.data 0xF8#8, .data 0#8]).flatten, .ok) := by decide
/-- V28, fixture P: (1, 4) is on the surface, and the fill faults. -/
theorem test_fillRect_past_width_faults :
    nextOf (fun t => (t.fault, t.hist)) (exec (.fillRect 1#16 4#16 2#16 1#16 0x001F#16) (sized 4 6))
      = some (some .operandUnspecified, []) := by decide
/-- V21: 'B' in distinct colours, samples in column order. -/
theorem test_drawChar_column_order :
    nextOf (fun t => (logicalStream t.hist).drop 11) (exec (.drawChar 0#16 0#16 0x42#8 0x1234#16 0x5678#16) up)
      = some [.data 0x12#8, .data 0x34#8, .data 0x12#8, .data 0x34#8, .data 0x56#8, .data 0x78#8, .data 0x12#8, .data 0x34#8,
        .data 0x56#8, .data 0x78#8, .data 0x56#8, .data 0x78#8] := by decide
/-- V25's negative corner on fixture T's cell: the window is sent unclipped, y on the column command. -/
theorem test_drawChar_unclipped :
    nextOf (fun t => ((logicalStream t.hist).take 11, t.status)) (exec (.drawChar 0xFFFE#16 0xFFFF#16 0x41#8 0#16 0#16) up)
      = some ([.cmd 0x2A#8, .data 0xFF#8, .data 0xFF#8, .data 0#8, .data 0#8, .cmd 0x2B#8, .data 0xFF#8, .data 0xFE#8, .data 0#8,
        .data 0#8, .cmd 0x2C#8], .clippedPartial) := by decide
/-- V3's products on fixture T, with a negative operand. -/
theorem test_setCursor :
    nextOf (fun t => (t.cursorX, t.cursorY)) (exec (.setCursor 3#16 0xFFFE#16) fresh) = some (9#16, 0xFFFC#16) := by decide
/-- V31: 5462 times a cell width of 6 is no coordinate; neither register is written. -/
theorem test_setCursor_overflow :
    nextOf (fun t => (t.cursorX, t.cursorY, t.fault))
      (exec (.setCursor 5462#16 1#16) { fresh with params := { paramsT [] with textWidth := 6 } })
      = some (0#16, 0#16, some .coordOverflow) := by decide
theorem test_setTextColour : nextOf State.textColour (exec (.setTextColour 0xF800#16) fresh) = some 0xF800#16 := by decide
theorem test_getTextColour : nextOf State.hist (exec .getTextColour fresh) = some [.ret 0xFFFF#16] := by decide
theorem test_setBgColour : nextOf State.backgroundColour (exec (.setBgColour 0x001F#16) fresh) = some 0x001F#16 := by decide
theorem test_getBgColour : nextOf State.hist (exec .getBgColour fresh) = some [.ret 0x0000#16] := by decide
theorem test_setTextWrap : nextOf State.wrap (exec (.setTextWrap 0x02#8) { fresh with wrap := false }) = some true := by decide
theorem test_getCursorX :
    nextOf State.hist (exec .getCursorX { fresh with cursorX := 0xFFFA#16, cursorY := 1#16 }) = some [.ret 0xFFFA#16] := by decide
theorem test_getCursorY :
    nextOf State.hist (exec .getCursorY { fresh with cursorX := 1#16, cursorY := 16#16 }) = some [.ret 16#16] := by decide
/-- V1's second record. -/
theorem test_record :
    nextOf (fun t => (t.hist, t.tp, t.rc)) (step (replaying tableE 5 1))
      = some ([.line .dc false, .line .cs false, .byte 0x29#8, .line .cs true], 7, 0) := by decide
/-- V1's first record. -/
theorem test_recordDelay :
    nextOf (fun t => (logicalStream t.hist, t.tp, t.rc, t.dc)) (step (replaying tableE 1 2))
      = some ([.cmd 0x11#8, .data 0x78#8, .delay 120], 5, 1, true) := by decide
/-- V18's third row: the delay byte is missing. -/
theorem test_recordDelay_truncated :
    nextOf (fun t => (logicalStream t.hist, t.fault, t.tp, t.rc)) (step (replaying [0x01#8, 0x11#8, 0x80#8] 1 1))
      = some ([.cmd 0x11#8], some (.decodeError 3), 3, 1) := by decide
theorem test_tableCount : nextOf (fun t => (t.rc, t.tp, t.phase)) (exec (.tableCount 2#8) fresh) = some (2, 1, .records) := by decide
/-- V34: a faulted engine refuses. -/
theorem test_faulted_engine :
    nextOf (fun t => (t.hist, t.host)) (step { up with fault := some .coordOverflow, host := [[0x0A#8], [0x00#8]] })
      = some ([], [[0x00#8]]) := by decide
/-- V12 without a timeout: CS stays low and the engine waits. -/
theorem test_stalled_byte_hangs :
    nextOf (fun t => (t.hist, t.cs, t.stuck)) (exec (.record 0x11#8 []) { up with busLeft := some 0 })
      = some ([.line .dc false, .line .cs false], false, some 0x11#8) := by decide
/-- V12 with a timeout: CS stays low and the engine faults. -/
theorem test_stalled_byte_times_out :
    nextOf (fun t => (t.cs, t.stuck, t.fault))
        (exec (.record 0x11#8 []) { up with busLeft := some 0, params := { paramsT [] with busTimeout := some 5 } })
      = some (false, none, some (.peripheralTimeout 0x11#8)) := by decide
/-- P2's picture on the reference panel: 'B' at (3, 0) lights (3, 0), (3, 1) and (4, 1). -/
theorem test_panel_picture :
    ((Panel.blank (paramsT [])).takeAll (windowStream (paramsT []) 3 0 5 1 ++ sampleStream (glyphSamples (paramsT []) 0x42#8 1#16 0#16))).map
        (fun q => [q.pixel 3 0, q.pixel 3 1, q.pixel 4 0, q.pixel 4 1, q.pixel 5 0, q.pixel 5 1, q.pixel 2 0])
      = some [some 1#16, some 1#16, some 0#16, some 1#16, some 0#16, some 0#16, none] := by decide
/-- A solid rectangle on the reference panel, its corners and its neighbours. -/
theorem test_panel_fill :
    ((Panel.blank (paramsT [])).takeAll (windowStream (paramsT []) 6 3 7 5 ++ sampleStream (List.replicate 6 7#16))).map
        (fun q => [q.pixel 6 3, q.pixel 7 5, q.pixel 5 3, q.pixel 6 2]) = some [some 7#16, some 7#16, none, none] := by decide

/-- Outside the surface the panel has no colour, although (6, HEIGHT + 3) would have the address of the written pixel (7, 3). -/
theorem test_panel_outside :
    ((Panel.blank (paramsT [])).takeAll (windowStream (paramsT []) 6 3 7 5 ++ sampleStream (List.replicate 6 7#16))).map
        (fun q => [q.pixel 7 3, q.pixel 6 (q.height + 3), q.pixel q.width 0]) = some [some 7#16, none, none] := by decide

/-! ## Witnesses: a state and operands that meet the hypotheses of each obligation, at the boundaries of its clauses -/

/-- `up` with a bus peripheral that completes n bytes. -/
def bus (n : Nat) : State := { up with busLeft := some n }

set_option maxRecDepth 4000 in
theorem test_meets_DecodeOfEncodeIsTheInstruction :
    (Instr.record 0#8 (List.replicate 127 0#8)).wellFormed = true ∧ (Instr.recordDelay 0#8 [] 255#8).wellFormed = true
      ∧ Instr.init.wellFormed = true ∧ (Instr.tableCount 255#8).wellFormed = true := by decide
theorem test_meets_EncodeOfDecodeIsTheBytes :
    decode .host [0x09#8, 0x02#8] = .ok (.setTextWrap 0x02#8, []) ∧ decode .header [0#8] = .ok (.tableCount 0#8, [])
      ∧ decode .records [0x29#8, 0#8, 1#8] = .ok (.record 0x29#8 [], [1#8]) := by decide
theorem test_meets_TableIsCountAndRecords :
    decodeTable (tableE ++ [0xAA#8]) = .ok [.recordDelay 0x11#8 [0x78#8] 0x78#8, .record 0x29#8 []] ∧ decodeTable [0#8] = .ok [] := by
  decide
set_option maxRecDepth 4000 in
/-- A count of 0, a count of 127 with one byte too few, and a delay record without arguments. -/
theorem test_meets_RecordDecodesByItsCountByte :
    ((0#8).toNat < 128 ∧ (0#8).toNat % 128 ≤ [].length (α := Byte))
      ∧ ((128#8).toNat ≥ 128 ∧ [].length (α := Byte) = (128#8).toNat % 128 ∧ [5#8] = [] ++ 5#8 :: [])
      ∧ (List.replicate 127 0#8).length < (255#8).toNat % 128 + (if 128 ≤ (255#8).toNat then 1 else 0) := by decide
theorem test_meets_StepRunsTheDecodedInstruction :
    (Ready up ∧ up.phase = .idle ∧ decodeFrame [0x0A#8] = .ok .getCursorX)
      ∧ (Ready { up with phase := .header } ∧ decodeHeader (up.params.initTable.drop up.tp) = .ok (.tableCount 2#8, tableE.drop 1))
      ∧ (Ready (replaying tableE 5 1) ∧ (replaying tableE 5 1).rc ≠ 0
        ∧ decodeRecord ((replaying tableE 5 1).params.initTable.drop 5) = .ok (.record 0x29#8 [], [])) := by decide
theorem test_meets_PlacedWordIsRunNext :
    Ready State.reset ∧ decodeTableWord 16 0x2900 = some (.record 0x29#8 []) ∧ decodeTableWord 8 0x0A = some .getCursorX
      ∧ decodeTableWord 8 0xFF = some (.tableCount 255#8) := by decide
theorem test_meets_IdleAndReservedRequests :
    Ready up ∧ up.phase = .idle ∧ up.host = [] ∧ 12 ≤ (0x0C#8).toNat ∧ 12 ≤ (0xFF#8).toNat := by decide
theorem test_meets_UndefinedFrameIsRefused :
    Ready up ∧ (Instr.write 0#8).stream = .host ∧ [0x01#8] = (encode (.write 0#8)).take 1 ++ []
      ∧ [0x01#8].length ≠ (encode (.write 0#8)).length
      ∧ [0x00#8, 0x00#8] = (encode .init).take 1 ++ [0x00#8] ∧ [0x00#8, 0x00#8].length ≠ (encode .init).length := by decide
theorem test_meets_BusWriteEndsInOneOfFourWays :
    fresh.initialised = false ∧ ((bus 1).initialised = true ∧ (bus 1).busLeft ≠ some 0)
      ∧ ((bus 0).busLeft = some 0 ∧ (bus 0).params.busTimeout = none)
      ∧ { paramsT [] with busTimeout := some 0 }.busTimeout ≠ none := by decide
theorem test_meets_SingleByteTransactions :
    fresh.initialised = false ∧ ((bus 1).initialised = true ∧ busCompletes 1 (bus 1).busLeft = true)
      ∧ busCompletes 1 (bus 0).busLeft = false := by decide
theorem test_meets_BurstSampleIsTwoBytesHighFirst :
    (bus 2).initialised = true ∧ busCompletes 2 (bus 2).busLeft = true ∧ (bus 1).busLeft = some 1 ∧ (bus 0).busLeft = some 0 := by
  decide
theorem test_meets_WindowSendsColumnThenRowSwapped :
    (bus 11).initialised = true ∧ busCompletes 11 (bus 11).busLeft = true := by decide
theorem test_meets_TableCountLoadsTheCounter : Ready { fresh with phase := .header } := by decide
theorem test_meets_RecordSendsCommandThenArguments :
    (Ready (bus 1) ∧ (bus 1).initialised = true ∧ busCompletes (1 + ([] : List Byte).length) (bus 1).busLeft = true)
      ∧ busCompletes (1 + 127) (bus 128).busLeft = true := by decide
theorem test_meets_RecordDelayEndsInItsDelay :
    (Ready (bus 2) ∧ (bus 2).initialised = true ∧ busCompletes (1 + [0x78#8].length) (bus 2).busLeft = true)
      ∧ busCompletes (1 + 127) up.busLeft = true := by decide
theorem test_meets_StalledRecordLeavesTheLineLow :
    (Ready (bus 0) ∧ (bus 0).initialised = true ∧ (bus 0).busLeft = some 0 ∧ (bus 0).params.busTimeout = none)
      ∧ (∃ d, Instr.recordDelay 0x11#8 [0x78#8] 0x78#8 = .recordDelay 0x11#8 [0x78#8] d)
      ∧ Ready { bus 0 with params := { paramsT [] with busTimeout := some 0 } } :=
  ⟨by decide, ⟨_, rfl⟩, by decide⟩
theorem test_meets_RecordStepIsTheByteInterpreter :
    Ready (replaying tableE 1 2) ∧ (replaying tableE 1 2).phase = .records ∧ (replaying tableE 1 2).rc ≠ 0 := by decide
/-- The second and fifth rows of V18: the count byte is missing, and the whole record is (tp at the end of the table). -/
theorem test_meets_TruncatedRecordFaultsAfterWhatWasSent :
    (∀ s ∈ [replaying [0x01#8, 0x11#8] 1 1, replaying [0x03#8, 0x29#8, 0x00#8] 3 2],
      Ready s ∧ s.phase = .records ∧ s.rc ≠ 0 ∧ s.initialised = true ∧ s.tp ≤ s.params.initTable.length
        ∧ decodeRecord (s.params.initTable.drop s.tp) = .error .truncatedRecord)
      ∧ busCompletes 128 up.busLeft = true ∧ busCompletes 128 (bus 128).busLeft = true := by decide
theorem test_meets_EmptyTableFaultsAtItsCount :
    let s : State := { up with params := paramsT [], phase := .header }
    Ready s ∧ s.phase = .header ∧ s.params.initTable = [] ∧ s.tp = 0 := by decide
theorem test_meets_ExpansionIsColumnByColumn :
    let cols := [0x03#8, 0xFE#8, 0xFF#8]
    cols.length = (paramsT []).textWidth ∧ 2 < (paramsT []).textWidth ∧ 1 < (paramsT []).textHeight ∧ cols[2]? = some 0xFF#8 := by
  decide
/-- The last glyph and the last drawable column. -/
theorem test_meets_RasterizedColumns :
    (0 < (paramsT []).textWidth ∧ 2 < (paramsT []).textWidth) ∧ (paramsT []).wf = true ∧ 97 ≤ 97 ∧ 1 + 2 ≤ (paramsT []).textWidth := by
  decide
/-- One for each of the four sides. -/
theorem test_meets_DrawCharOutsideIsANoOp :
    Ready fresh ∧ CellOutside fresh.params 8 0 ∧ CellOutside fresh.params 0 6 ∧ CellOutside fresh.params (-3) 0
      ∧ CellOutside fresh.params 0 (-2) := by decide
theorem test_meets_DrawCharSendsTheWholeCell :
    Ready (bus 23) ∧ (bus 23).initialised = true ∧ ¬ CellOutside (bus 23).params (-2) (-1) ∧ CellFits (bus 23).params (-2) (-1)
      ∧ ¬ CellOutside (bus 23).params 7 5 ∧ CellFits (bus 23).params 7 5
      ∧ busCompletes (11 + 2 * ((bus 23).params.textWidth * (bus 23).params.textHeight)) (bus 23).busLeft = true := by decide
theorem test_meets_DrawCharTraps :
    let wide := (sized 32767 6).params
    Ready (sized 32767 6) ∧ (¬ CellOutside wide 32766 0 ∧ ¬ CellFits wide 32766 0)
      ∧ (Ready fresh ∧ ¬ CellOutside fresh.params 0 0 ∧ CellFits fresh.params 0 0 ∧ fresh.initialised = false) := by decide
theorem test_meets_DrawCharLeavesAnInitialPiece :
    (Ready (bus 5) ∧ ¬ CellOutside (bus 5).params 7 5) ∧ Ready up ∧ ¬ CellOutside up.params 0 0 := by decide
/-- One for each of the four sides. -/
theorem test_meets_FillRectOutsideIsANoOp :
    Ready fresh ∧ (0xFFFF#16).toInt < 0 ∧ (8#16).toInt ≥ (fresh.params.width : Int) ∧ (6#16).toInt ≥ (fresh.params.height : Int) := by
  decide
theorem test_meets_FillRectSendsTheClampedRectangle :
    Ready (bus 13) ∧ (bus 13).initialised = true ∧ 0 ≤ (7#16).toInt ∧ (7#16).toInt < ((bus 13).params.width : Int)
      ∧ 0 ≤ (5#16).toInt ∧ (5#16).toInt < ((bus 13).params.height : Int) ∧ 1 ≤ (1#16).toInt ∧ 1 ≤ (32767#16).toInt
      ∧ busCompletes (11 + 2 * ((min ((1 : Int) - 1) (8 - 1 - 7) + 1) * (min ((1 : Int) - 1) (8 - 1 - 5) + 1)).toNat) (bus 13).busLeft
        = true := by decide
theorem test_meets_FillRectTraps :
    (Ready (sized 4 6) ∧ (3#16).toInt < ((sized 4 6).params.width : Int) ∧ (4#16).toInt < ((sized 4 6).params.height : Int)
      ∧ ((0#16).toInt < 1 ∧ (4#16).toInt ≥ ((sized 4 6).params.width : Int)))
      ∧ (Ready fresh ∧ fresh.initialised = false
        ∧ ¬ ((1#16).toInt < 1 ∨ (1#16).toInt < 1 ∨ (5#16).toInt ≥ (fresh.params.width : Int))) := by decide
theorem test_meets_WriteLineFeedMovesToTheNextLine :
    Ready fresh ∧ (32765#16).toInt + (fresh.params.textHeight : Int) ≤ 32767
      ∧ ¬ (32766#16).toInt + (fresh.params.textHeight : Int) ≤ 32767 := by decide
theorem test_meets_WriteCarriageReturnIsDiscarded : Ready fresh := by decide
/-- Below the surface with the wrap firing, and the last cursorX whose advance is a coordinate with wrap off. -/
theorem test_meets_WriteOffTheSurfaceStillAdvances :
    Ready fresh ∧ (CellOutside fresh.params 3 6 ∧ CursorSumsFit fresh.params true 3 6)
      ∧ (CellOutside fresh.params 32764 0 ∧ CursorSumsFit fresh.params false 32764 0) := by decide
theorem test_meets_WriteDrawsThenMovesTheCursor :
    Ready (bus 23) ∧ (bus 23).initialised = true ∧ (0x41#8 ≠ 0x0A#8 ∧ 0x41#8 ≠ 0x0D#8) ∧ ¬ CellOutside (bus 23).params 7 5
      ∧ CellFits (bus 23).params 7 5 ∧ CursorSumsFit (bus 23).params true 7 5
      ∧ busCompletes (glyphBytes (bus 23).params) (bus 23).busLeft = true := by decide
/-- A cell past 32767; a cell on the surface before INIT; an advance to 32768 off the surface and after a drawing; a new row of 32768
below the surface, and after a drawing in the last row that can be drawn in. -/
theorem test_meets_WriteTraps :
    let wide := (sized 32767 6).params
    let high := (sized 8 32767).params
    (Ready (sized 32767 6) ∧ ¬ CellOutside wide 32766 0 ∧ ¬ CellFits wide 32766 0)
      ∧ (Ready fresh ∧ ¬ CellOutside fresh.params 0 0 ∧ CellFits fresh.params 0 0 ∧ fresh.initialised = false)
      ∧ (CellOutside fresh.params 32765 0 ∧ (32765 : Int) + fresh.params.textWidth > 32767)
      ∧ (¬ CellOutside wide 32765 0 ∧ CellFits wide 32765 0 ∧ (sized 32767 6).initialised = true
        ∧ busCompletes (glyphBytes wide) (sized 32767 6).busLeft = true ∧ (32765 : Int) + wide.textWidth > 32767)
      ∧ (CellOutside fresh.params 3 32766 ∧ fresh.wrap = true ∧ (3 : Int) + fresh.params.textWidth ≤ 32767
        ∧ (3 : Int) + fresh.params.textWidth > (fresh.params.width : Int) - fresh.params.textWidth
        ∧ (32766 : Int) + fresh.params.textHeight > 32767)
      ∧ (¬ CellOutside high 3 32766 ∧ CellFits high 3 32766 ∧ (32766 : Int) + high.textHeight > 32767) := by decide
theorem test_meets_WrapKeepsTheCursorInTheRow :
    up.params.wf = true ∧ up.params.textWidth ≤ up.params.width ∧ up.wrap = true ∧ CursorInRow up
      ∧ CursorInRow { up with cursorX := 5#16 } ∧ (nextOf State.wrap (exec (.write 0x41#8) up)).isSome = true := by decide
theorem test_meets_SetCursorWritesBothOrFaults :
    Ready fresh ∧ (-32768 ≤ (10922#16).toInt * (3 : Int) ∧ (10922#16).toInt * (3 : Int) ≤ 32767)
      ∧ ¬ (10923#16).toInt * (3 : Int) ≤ 32767 := by decide
theorem test_meets_TextColourIsSetAndReturned : Ready fresh := by decide
theorem test_meets_BackgroundColourIsSetAndReturned : Ready fresh := by decide
theorem test_meets_TextWrapTakesTheByte : Ready fresh := by decide
theorem test_meets_CursorIsReturnedInPixels : Ready fresh := by decide
theorem test_meets_InitBringsUpTheLines : Ready State.reset := by decide
theorem test_meets_InitEndsWithTheFill :
    let s : State := { replaying [0#8] 1 0 with busLeft := some 107 }
    Ready s ∧ s.phase = .records ∧ s.rc = 0 ∧ s.initialised = true ∧ s.params.wf = true
      ∧ busCompletes (11 + 2 * (s.params.width * min s.params.height s.params.width)) s.busLeft = true := by decide
theorem test_meets_InitRunsItsWholeSequence :
    let s : State := { fresh with host := [[0x00#8], [0x0A#8]], busLeft := some 110 }
    Ready s ∧ s.phase = .idle ∧ s.params.wf = true
      ∧ decodeTable s.params.initTable = .ok [.recordDelay 0x11#8 [0x78#8] 0x78#8, .record 0x29#8 []]
      ∧ busCompletes (([Instr.recordDelay 0x11#8 [0x78#8] 0x78#8, .record 0x29#8 []].map recordBytes).sum + (11 + 2 * (8 * min 6 8)))
        s.busLeft = true := by decide
theorem test_meets_InitTerminates :
    let s : State := { fresh with host := [[0x00#8]] }
    Ready s ∧ s.phase = .idle ∧ s.host = [[0x00#8]] ∧ s.busLeft = none ∧ s.params.wf = true := by decide
theorem test_meets_StoppedEngineExecutesNothing :
    let s : State := { up with fault := some (.decodeError 6), host := [[0x01#8, 0x41#8]] }
    (s.stuck = none ∧ s.fault = some (.decodeError 6)) ∧ { up with stuck := some 0x11#8 }.stuck = some 0x11#8 := by decide
/-- A history with a whole command transaction in it. -/
theorem test_meets_StepKeepsTheBusDiscipline :
    let s : State := { up with hist := [.dir .cs, .line .rst true, .delay 10] ++ commandEvents 0x29#8, dc := false, host := [[0x0A#8]] }
    BusInv s ∧ (nextOf State.cs (step s)).isSome = true := by decide
theorem test_meets_StepKeepsTheBringUpInvariant :
    (BringUpInv fresh ∧ (nextOf State.cs (step fresh)).isSome = true)
      ∧ (BringUpInv (replaying tableE 5 1) ∧ (nextOf State.cs (step (replaying tableE 5 1))).isSome = true)
      ∧ BringUpInv { up with fault := some .coordOverflow, drawStatus := some .outOfBounds } := by decide
theorem test_meets_StepOnlyAppendsAndKeepsParameters : (nextOf State.cs (step { up with host := [[0x0A#8]] })).isSome = true := by decide
theorem test_meets_DrawingFrame :
    (nextOf State.cs (exec (.drawChar 7#16 5#16 0x41#8 1#16 2#16) up)).isSome = true
      ∧ (nextOf State.cs (exec (.fillRect 7#16 5#16 1#16 1#16 1#16) (bus 5))).isSome = true := by decide
theorem test_meets_WriteFrame : (nextOf State.cs (exec (.write 0x41#8) up)).isSome = true := by decide
theorem test_meets_TableInstructionFrame :
    (Instr.tableCount 1#8).stream ≠ .host ∧ (nextOf State.cs (exec (.tableCount 1#8) fresh)).isSome = true
      ∧ (Instr.record 0x29#8 []).stream ≠ .host ∧ (nextOf State.cs (exec (.record 0x29#8 []) up)).isSome = true := by decide
/-- The last cell that lies in the surface. -/
theorem test_meets_GlyphLandsOnItsCell :
    let p := paramsT []
    p.wf = true ∧ (Panel.blank p).width = p.width ∧ (Panel.blank p).height = p.height ∧ p.cmdColset ≠ p.cmdRowset
      ∧ p.cmdColset ≠ p.cmdRamwr ∧ p.cmdRowset ≠ p.cmdRamwr ∧ 5 + p.textWidth ≤ p.width ∧ 4 + p.textHeight ≤ p.height := by decide
theorem test_meets_FillLandsOnItsRectangle :
    let p := paramsT []
    p.wf = true ∧ (Panel.blank p).cmdColset = p.cmdColset ∧ (Panel.blank p).cmdRowset = p.cmdRowset
      ∧ (Panel.blank p).cmdRamwr = p.cmdRamwr ∧ 0 + 7 < p.width ∧ 0 + 5 < p.height ∧ 7 + 0 < p.width ∧ 5 + 0 < p.height := by decide

end Sys2Proof.Machine.Tests
end

section
/-! PROOFS. What `decodeRecord` answers on a command byte, a count byte and further bytes, one lemma per branch (30_encoding.md R60,
R62, R67), and obligation O6, which says the same of the count byte's numeric value. -/

namespace Sys2Proof

theorem delayFlag_eq_false_iff_lt (b : Byte) : delayFlag b = false ↔ b.toNat < 128 := by
  rw [Bool.eq_false_iff, ne_eq, delayFlag_iff_le, Nat.not_le]

theorem decodeRecord_of_noDelay (cmd b : Byte) (rest : List Byte) (hflag : delayFlag b = false) (hlen : argCount b ≤ rest.length) :
    decodeRecord (cmd :: b :: rest) = .ok (.record cmd (rest.take (argCount b)), rest.drop (argCount b)) := by
  simp [decodeRecord, hflag, Nat.not_lt.mpr hlen]

theorem decodeRecord_of_delay (cmd b d : Byte) (args tail : List Byte) (hflag : delayFlag b = true)
    (hlen : args.length = argCount b) :
    decodeRecord (cmd :: b :: (args ++ d :: tail)) = .ok (.recordDelay cmd args d, tail) := by
  simp [decodeRecord, hflag, ← hlen]

/-- The arguments are cut short, or they are all there and the flagged delay byte is not. -/
theorem decodeRecord_of_truncated (cmd b : Byte) (rest : List Byte)
    (hlen : rest.length < argCount b + (if delayFlag b then 1 else 0)) :
    decodeRecord (cmd :: b :: rest) = .error .truncatedRecord := by
  cases hflag : delayFlag b with
  | false =>
    have hargs : rest.length < argCount b := by simpa [hflag] using hlen
    simp [decodeRecord, hargs]
  | true =>
    have hle : rest.length ≤ argCount b := by simpa [hflag, Nat.lt_succ_iff] using hlen
    simp [decodeRecord, hflag, List.drop_eq_nil_of_le hle]

/-- Settles O6: the count byte's two fields are its value below 128 and whether it reaches 128, so each clause is one branch of
`decodeRecord`. -/
theorem recordDecodesByItsCountByte : Obligations.RecordDecodesByItsCountByte := by
  intro cmd b rest
  simp only [← argCount_eq_mod, ← delayFlag_iff_le, ← delayFlag_eq_false_iff_lt]
  refine ⟨decodeRecord_of_noDelay cmd b rest, ?_, decodeRecord_of_truncated cmd b rest⟩
  rintro args tail d hflag hlen rfl
  exact decodeRecord_of_delay cmd b d args tail hflag hlen

end Sys2Proof
end

section
/-! PROOFS. Bus transport: what the micro-operations do before INIT and on a byte that never completes, what the panel receives of
one transaction, and obligations O12 and O13 (40_bus_transport.md R78 to R83). -/

namespace Sys2Proof.Machine

/-! ## Before INIT, and on a byte that never completes -/

theorem sendCommand_of_uninitialised (b : Byte) (s : State) (hi : s.initialised = false) :
    sendCommand b s = raise .notInitialised s := if_pos hi

theorem sendData_of_uninitialised (b : Byte) (s : State) (hi : s.initialised = false) :
    sendData b s = raise .notInitialised s := if_pos hi

theorem busCompletes_one_eq_false_iff (o : Option Nat) : busCompletes 1 o = false ↔ o = some 0 := by
  cases o with
  | none => simp [busCompletes]
  | some n => simp [busCompletes]

/-- What follows a byte that never completes is not executed, with or without a timeout. -/
theorem busWrite_andThen_of_stalled (b : Byte) (s : State) (f : State → Progress) (hi : s.initialised = true)
    (hb : s.busLeft = some 0) : (busWrite b s).andThen f = busWrite b s := by
  rw [busWrite, if_neg (by simp [hi]), if_pos hb]
  cases s.params.busTimeout with
  | none => rfl
  | some bound => rfl

theorem sendCommand_of_stalled (b : Byte) (s : State) (hi : s.initialised = true) (hb : s.busLeft = some 0) :
    sendCommand b s = busWrite b (driveLine .cs false (driveLine .dc false s)) := by
  rw [sendCommand, if_neg (by simp [hi])]
  exact busWrite_andThen_of_stalled b (driveLine .cs false (driveLine .dc false s)) _ hi hb

theorem sendData_of_stalled (b : Byte) (s : State) (hi : s.initialised = true) (hb : s.busLeft = some 0) :
    sendData b s = busWrite b (driveLine .cs false (driveLine .dc true s)) := by
  rw [sendData, if_neg (by simp [hi])]
  exact busWrite_andThen_of_stalled b (driveLine .cs false (driveLine .dc true s)) _ hi hb

theorem driveLine_dc_cs_eq (dc cs : Bool) (s : State) :
    driveLine .cs cs (driveLine .dc dc s) = { s with dc := dc, cs := cs, hist := s.hist ++ [.line .dc dc, .line .cs cs] } := by
  simp [driveLine, emit, setLevel]

/-! ## What the panel receives of one transaction

A transaction drives both lines before its byte, so the levels the history ended on do not matter. -/

theorem logicalStream_append_commandEvents (hist : List Event) (b : Byte) :
    logicalStream (hist ++ commandEvents b) = logicalStream hist ++ [.cmd b] := by
  obtain ⟨cs, dc, happend⟩ := logicalFrom_append true true hist
  exact happend (commandEvents b)

theorem logicalStream_append_dataEvents (hist : List Event) (b : Byte) :
    logicalStream (hist ++ dataEvents b) = logicalStream hist ++ [.data b] := by
  obtain ⟨cs, dc, happend⟩ := logicalFrom_append true true hist
  exact happend (dataEvents b)

/-- Settles O12: the four cases of a transaction, before INIT, completed, stalled, and as the panel receives it. -/
theorem singleByteTransactions : Obligations.SingleByteTransactions := by
  intro b s
  refine ⟨fun hi => ?_, fun hi hb => ?_, fun hi hb => ?_, fun hist => ?_⟩
  · exact ⟨sendCommand_of_uninitialised b s hi, sendData_of_uninitialised b s hi⟩
  · exact ⟨sendCommand_done b s hi hb, sendData_done b s hi hb⟩
  · rw [busCompletes_one_eq_false_iff] at hb
    rw [sendCommand_of_stalled b s hi hb, sendData_of_stalled b s hi hb, driveLine_dc_cs_eq, driveLine_dc_cs_eq]
    exact ⟨rfl, rfl⟩
  · exact ⟨logicalStream_append_commandEvents hist b, logicalStream_append_dataEvents hist b⟩

/-! ## The burst -/

/-- The high byte is the last that completes: half of the sample is out when the low byte stalls. -/
theorem burstSample_of_one_left (v : Colour) (s : State) (hi : s.initialised = true) (hb : s.busLeft = some 1) :
    burstSample v s = busWrite (lo8 v) { s with hist := s.hist ++ [.byte (hi8 v)], busLeft := some 0 } := by
  have hhigh : busWrite (hi8 v) s = .done (afterBus s.cs s.dc [.byte (hi8 v)] 1 s) :=
    busWrite_done _ _ hi (by simp [hb, busCompletes])
  rw [burstSample, hhigh, Progress.andThen_done]
  simp [afterBus, hb, busSpend]

theorem burstSample_of_stalled (v : Colour) (s : State) (hi : s.initialised = true) (hb : s.busLeft = some 0) :
    burstSample v s = busWrite (hi8 v) s := busWrite_andThen_of_stalled (hi8 v) s _ hi hb

/-- Settles O13: both bytes of the sample complete, the first only, or none; the open burst's logical stream and its closing are
the definitions' own. -/
theorem burstSampleIsTwoBytesHighFirst : Obligations.BurstSampleIsTwoBytesHighFirst := by
  intro v s hi
  exact ⟨burstSample_done v s hi, burstSample_of_one_left v s hi, burstSample_of_stalled v s hi, rfl, closeBurst_eq s⟩

end Sys2Proof.Machine
end

section
/-! PROOFS. The font rasterizer: what one glyph index, one column and one sample are, and obligations O23, O24 and O25
(42_font_rasterizer.md R97 to R100, 20_memory.md R42). -/

namespace Sys2Proof.Machine

/-! ## Expansion -/

/-- In blocks of n elements each, element j of block i stands at `i * n + j`. -/
theorem getElem?_flatMap_of_length {α β : Type} {f : α → List β} {n : Nat} (hf : ∀ a, (f a).length = n) (l : List α) (i : Nat)
    {j : Nat} (hj : j < n) : (l.flatMap f)[i * n + j]? = l[i]?.bind fun a => (f a)[j]? := by
  induction l generalizing i with
  | nil => rfl
  | cons a l ih =>
    rw [List.flatMap_cons]
    cases i with
    | zero =>
      rw [Nat.zero_mul, Nat.zero_add, List.getElem?_append_left (by rwa [hf a])]
      rfl
    | succ i =>
      have hskip : (i + 1) * n + j = (f a).length + (i * n + j) := by rw [hf a]; ring
      rw [hskip, List.getElem?_append_right (Nat.le_add_right _ _), Nat.add_sub_cancel_left]
      exact ih i

theorem expandGlyph_length (p : Params) (cols : List Byte) (fg bg : Colour) :
    (expandGlyph p cols fg bg).length = p.textWidth * p.textHeight := by
  simp [expandGlyph, List.length_flatMap]

theorem expandGlyph_getElem? (p : Params) (cols : List Byte) (fg bg : Colour) {i j : Nat} (hi : i < p.textWidth)
    (hj : j < p.textHeight) : (expandGlyph p cols fg bg)[i * p.textHeight + j]? = some (glyphSample p cols fg bg i j) := by
  rw [expandGlyph, getElem?_flatMap_of_length (fun _ => by simp) _ i hj]
  simp [hi, hj]

theorem glyphSample_of_column (p : Params) {cols : List Byte} (fg bg : Colour) {i : Nat} (j : Nat) {b : Byte}
    (hb : cols[i]? = some b) :
    glyphSample p cols fg bg i j = if i + 2 ≤ p.textWidth ∧ b.getLsbD j = true then fg else bg := by
  rw [glyphSample, hb, Option.getD_some]

/-- Settles O24: the expansion is one block of TEXTHEIGHT samples for each column, so sample `i*TEXTHEIGHT + j` is row j of
column i. -/
theorem expansionIsColumnByColumn : Obligations.ExpansionIsColumnByColumn := by
  intro p cols fg bg _
  refine ⟨expandGlyph_length p cols fg bg, fun i j b hi hj hb => ?_⟩
  rw [expandGlyph_getElem? p cols fg bg hi hj, glyphSample_of_column p fg bg j hb]

/-! ## The glyph index -/

theorem glyphIndex_of_lt {code : Byte} (h : code.toNat < 32) : glyphIndex code = 97 :=
  if_pos (.inl (by omega))

theorem glyphIndex_of_gt {code : Byte} (h : 97 < code.toNat - 32) : glyphIndex code = 97 :=
  if_pos (.inr (by omega))

theorem glyphIndex_of_mem {code : Byte} (hlow : 32 ≤ code.toNat) (hhigh : code.toNat - 32 ≤ 97) :
    glyphIndex code = code.toNat - 32 := by
  rw [glyphIndex, if_neg (by omega)]
  omega

/-- Settles O23: the index lies below 0, above 97 or between, and both sides give the fallback. -/
theorem glyphIndexClampsToTheFallback : Obligations.GlyphIndexClampsToTheFallback := by
  intro code
  by_cases hlow : code.toNat < 32
  · simp [glyphIndex_of_lt hlow, hlow]
  by_cases hhigh : code.toNat - 32 > 97
  · simp [glyphIndex_of_gt hhigh, hhigh]
  · rw [glyphIndex_of_mem (not_lt.mp hlow) (not_lt.mp hhigh), if_neg hlow, if_neg hhigh]
    exact ⟨rfl, not_lt.mp hhigh⟩

/-! ## Rasterizing -/

theorem rasterizeGlyph_length (p : Params) (code : Byte) : (rasterizeGlyph p code).length = p.textWidth := by
  simp [rasterizeGlyph]

theorem rasterizeGlyph_getElem? (p : Params) (code : Byte) {i : Nat} (hi : i < p.textWidth) :
    (rasterizeGlyph p code)[i]? = some (glyphColumn p code i) := by
  simp [rasterizeGlyph, hi]

theorem glyphColumn_eq (p : Params) (code : Byte) {i : Nat} (hi : i < p.textWidth) :
    glyphColumn p code i = if i = p.textWidth - 1 then 0#8 else fontRead p (glyphIndex code) i := by
  by_cases hlast : i = p.textWidth - 1
  · rw [glyphColumn, if_neg (by omega), if_pos hlast]
  · rw [glyphColumn, if_pos (by omega), if_neg hlast]

/-- A legal font has 98 glyphs, each with a byte for every drawable column. -/
theorem font_of_wf {p : Params} (h : p.wf = true) :
    p.font.length = 98 ∧ ∀ glyph ∈ p.font, p.textWidth ≤ glyph.length + 1 := by
  simp only [Params.wf, Bool.and_eq_true, decide_eq_true_eq, List.all_eq_true] at h
  obtain ⟨⟨_, hcount⟩, hglyphs⟩ := h
  exact ⟨hcount, hglyphs⟩

theorem fontRead_of_wf {p : Params} {g i : Nat} (hwf : p.wf = true) (hg : g ≤ 97) (hi : i + 2 ≤ p.textWidth) :
    ∃ glyph, p.font[g]? = some glyph ∧ glyph[i]? = some (fontRead p g i) := by
  obtain ⟨hcount, hglyphs⟩ := font_of_wf hwf
  have hgl : g < p.font.length := by omega
  have hil : i < p.font[g].length := by
    have hbytes := hglyphs p.font[g] (List.getElem_mem hgl)
    omega
  refine ⟨p.font[g], List.getElem?_eq_getElem hgl, ?_⟩
  simp [fontRead, hgl, hil]

/-- Settles O25: each column of the cell is `glyphColumn`, and a legal font has an entry behind every read of it. -/
theorem rasterizedColumns : Obligations.RasterizedColumns := by
  refine ⟨fun p code => ⟨rasterizeGlyph_length p code, fun i hi => ?_⟩, fun p g i => fontRead_of_wf⟩
  rw [rasterizeGlyph_getElem? p code hi, glyphColumn_eq p code hi]

end Sys2Proof.Machine
end

section
/-! PROOFS. The carriage return and the accessors: none of them touches the bus, so each of their meanings is one closed form of the
pseudocode, and obligations O34 and O39 to O43 (43_display_surface.md R107, R119 to R127). -/

namespace Sys2Proof.Machine

/-! ## WRITE of a carriage return -/

theorem writeBody_carriageReturn (s : State) : writeBody 0x0D#8 s = .done (respond 1 (setStatus .ok s)) := rfl

/-- Settles O34: a carriage return takes WRITE's branch that only sets the status; the response follows it. -/
theorem writeCarriageReturnIsDiscarded : Obligations.WriteCarriageReturnIsDiscarded := by
  intro s hready
  have hbody : body (.write 0x0D#8) s = .done (respond 1 (setStatus .ok s)) := writeBody_carriageReturn s
  rw [exec_ready _ s hready, hbody]
  rfl

/-! ## SETCURSOR -/

/-- Both products are coordinates: the registers take their 16-bit patterns. -/
theorem setCursorBody_fits {col row : Int} {s : State} (hx : inCoord (col * s.params.textWidth) = true)
    (hy : inCoord (row * s.params.textHeight) = true) :
    setCursorBody col row s = .done { s with
      cursorX := u16 (col * s.params.textWidth), cursorY := u16 (row * s.params.textHeight), status := .ok } := by
  rw [setCursorBody, if_pos (by rw [hx, hy]; rfl)]
  rfl

theorem setCursorBody_overflows {col row : Int} {s : State}
    (h : ¬ (inCoord (col * s.params.textWidth) = true ∧ inCoord (row * s.params.textHeight) = true)) :
    setCursorBody col row s = raise .coordOverflow s := by
  rw [setCursorBody, if_neg (by rwa [Bool.and_eq_true])]

theorem inCoord_and_inCoord_iff (nx ny : Int) :
    inCoord nx = true ∧ inCoord ny = true ↔ -32768 ≤ nx ∧ nx ≤ 32767 ∧ -32768 ≤ ny ∧ ny ≤ 32767 := by
  rw [inCoord_iff, inCoord_iff, and_assoc]

/-- Settles O39: the bounds of the statement are `inCoord` of the two products, which decides SETCURSOR's one branch; a product that
is a coordinate is what its 16-bit pattern stands for. -/
theorem setCursorWritesBothOrFaults : Obligations.SetCursorWritesBothOrFaults := by
  intro col row s hready
  have hbody : body (.setCursor col row) s = setCursorBody (coord col) (coord row) s := rfl
  simp only [← inCoord_and_inCoord_iff, exec_ready _ s hready, hbody]
  refine ⟨rfl, fun ⟨hx, hy⟩ => ?_, fun hoverflow => ?_⟩
  · exact ⟨_, _, toInt_u16 hx, toInt_u16 hy, by rw [setCursorBody_fits hx hy, Progress.state_done]⟩
  · rw [setCursorBody_overflows hoverflow]
    rfl

/-! ## Colours, wrap and the cursor

The state the pseudocode leaves is the statement's own, read through the definition of `body`. -/

/-- Settles O40: the frames are the encoder's own arms, the next states those of the two bodies. -/
theorem textColourIsSetAndReturned : Obligations.TextColourIsSetAndReturned := by
  intro v s hready
  exact ⟨rfl, rfl, exec_ready (.setTextColour v) s hready, exec_ready .getTextColour s hready⟩

/-- Settles O41: as for the text colour, with the background's register. -/
theorem backgroundColourIsSetAndReturned : Obligations.BackgroundColourIsSetAndReturned := by
  intro v s hready
  exact ⟨rfl, rfl, exec_ready (.setBgColour v) s hready, exec_ready .getBgColour s hready⟩

/-- The model tests the byte's number, the spec the byte (30_encoding.md R70). -/
theorem wrapOperand_eq (b : Byte) : wrapOperand b = decide (b ≠ 0#8) := by
  rw [wrapOperand, decide_eq_decide, ← BitVec.toNat_ne_iff_ne]
  rfl

/-- Settles O42: `wrap` takes the byte's wrap operand, and the body writes nothing else but the status. -/
theorem textWrapTakesTheByte : Obligations.TextWrapTakesTheByte := by
  intro b s hready
  rw [← wrapOperand_eq]
  exact ⟨rfl, exec_ready (.setTextWrap b) s hready⟩

/-- Settles O43: the two getters respond with the register itself, which holds pixels. -/
theorem cursorIsReturnedInPixels : Obligations.CursorIsReturnedInPixels := by
  intro s hready
  exact ⟨rfl, rfl, exec_ready .getCursorX s hready, exec_ready .getCursorY s hready⟩

end Sys2Proof.Machine
end

section
/-! PROOFS. The codec both ways, and obligations O2, O3, O4 and O5 (30_encoding.md sections 1 and 2). -/

namespace Sys2Proof

/-! ## Decoding what was encoded -/

theorem decodeFrame_encode {i : Instr} (hstream : i.stream = .host) : decodeFrame (encode i) = .ok i := by
  cases i with
  | record | recordDelay | tableCount => cases hstream
  | init | write | fillRect | drawChar | setCursor | setTextColour | getTextColour | setBgColour | getBgColour | setTextWrap
  | getCursorX | getCursorY => simp [encode, encodeWord, decodeFrame, decodeOperands]

theorem decodeRecord_encode_record (cmd : Byte) (args tail : List Byte) (hargs : args.length ≤ 127) :
    decodeRecord (encode (.record cmd args) ++ tail) = .ok (.record cmd args, tail) := by
  have hcount := argCount_countByte false _ hargs
  have hlen : argCount (countByte false args.length) ≤ (args ++ tail).length := by simp [hcount]
  change decodeRecord (cmd :: countByte false args.length :: (args ++ tail)) = _
  rw [decodeRecord_of_noDelay _ _ _ (delayFlag_countByte false _ hargs) hlen, hcount, List.take_left, List.drop_left]

theorem decodeRecord_encode_recordDelay (cmd d : Byte) (args tail : List Byte) (hargs : args.length ≤ 127) :
    decodeRecord (encode (.recordDelay cmd args d) ++ tail) = .ok (.recordDelay cmd args d, tail) := by
  have hbytes : encode (.recordDelay cmd args d) ++ tail = cmd :: countByte true args.length :: (args ++ d :: tail) := by
    simp [encode]
  rw [hbytes, decodeRecord_of_delay _ _ _ _ _ (delayFlag_countByte true _ hargs) (argCount_countByte true _ hargs).symm]

/-- Settles O2: by the stream the instruction is read from; a record is found by its count byte, a frame by its opcode. -/
theorem decodeOfEncodeIsTheInstruction : Obligations.DecodeOfEncodeIsTheInstruction := by
  intro i tail hwf
  cases hstream : i.stream with
  | host =>
    simp only [if_true, List.append_nil, decode, decodeFrame_encode hstream]
    rfl
  | header =>
    cases i with
    | tableCount n => rfl
    | _ => cases hstream
  | records =>
    cases i with
    | record cmd args => exact decodeRecord_encode_record cmd args tail (of_decide_eq_true hwf)
    | recordDelay cmd args d => exact decodeRecord_encode_recordDelay cmd d args tail (of_decide_eq_true hwf)
    | _ => cases hstream

/-! ## Encoding what was decoded -/

/-- A frame's operand bytes are those of the instruction it spells, after the opcode. -/
theorem encode_of_decodeOperands {op : Nat} {ops : List Byte} {i : Instr} (h : decodeOperands op ops = some i) :
    i.wellFormed = true ∧ i.stream = .host ∧ encode i = BitVec.ofNat 8 op :: ops := by
  unfold decodeOperands at h
  split at h
  case h_13 => cases h
  all_goals
    split at h
    · cases h
      exact ⟨rfl, rfl, by simp [encode, encodeWord]⟩
    · cases h

theorem encode_of_decodeFrame {frame : List Byte} {i : Instr} (h : decodeFrame frame = .ok i) :
    i.wellFormed = true ∧ i.stream = .host ∧ frame = encode i := by
  unfold decodeFrame at h
  split at h
  · cases h
  · rename_i op ops
    split_ifs at h
    split at h
    · rename_i j hj
      cases h
      obtain ⟨hwf, hstream, henc⟩ := encode_of_decodeOperands hj
      exact ⟨hwf, hstream, by simp [henc]⟩
    · cases h

theorem encode_of_decodeHeader {bytes rest : List Byte} {i : Instr} (h : decodeHeader bytes = .ok (i, rest)) :
    i.wellFormed = true ∧ i.stream = .header ∧ bytes = encode i ++ rest := by
  unfold decodeHeader at h
  split at h
  · cases h
  · cases h
    exact ⟨rfl, rfl, rfl⟩

theorem argCount_le (b : Byte) : argCount b ≤ 127 := by
  rw [argCount_eq_mod]
  omega

/-- The count byte of a record that was read is the one the encoder writes for its arguments. -/
theorem countByte_of_read {b : Byte} {args : List Byte} {dly : Bool} (hflag : delayFlag b = dly)
    (hlen : args.length = argCount b) : countByte dly args.length = b := by rw [← hflag, hlen, countByte_fields]

theorem encode_of_decodeRecord {bytes rest : List Byte} {i : Instr} (h : decodeRecord bytes = .ok (i, rest)) :
    i.wellFormed = true ∧ i.stream = .records ∧ bytes = encode i ++ rest := by
  unfold decodeRecord at h
  split at h
  · rename_i cmd b body
    split_ifs at h with hshort hflag
    · split at h
      · rename_i d _ hdrop
        cases h
        have hlen : (body.take (argCount b)).length = argCount b := by simp; omega
        refine ⟨?_, rfl, ?_⟩
        · simpa [Instr.wellFormed, hlen] using argCount_le b
        · have hbody : body.take (argCount b) ++ d :: rest = body := by rw [← hdrop, List.take_append_drop]
          rw [encode, countByte_of_read hflag hlen]
          simp [hbody]
      · cases h
    · cases h
      have hlen : (body.take (argCount b)).length = argCount b := by simp; omega
      refine ⟨?_, rfl, ?_⟩
      · simpa [Instr.wellFormed, hlen] using argCount_le b
      · rw [encode, countByte_of_read (Bool.eq_false_iff.2 hflag) hlen]
        simp
  · cases h

/-- The host stream is one frame and no more. -/
theorem decode_host_eq_ok {bytes rest : List Byte} {i : Instr} (h : decode .host bytes = .ok (i, rest)) :
    decodeFrame bytes = .ok i ∧ rest = [] := by
  simp only [decode] at h
  cases hframe : decodeFrame bytes with
  | error r => rw [hframe] at h; cases h
  | ok j => rw [hframe] at h; cases h; exact ⟨rfl, rfl⟩

/-- Settles O3: one decoder for each stream. -/
theorem encodeOfDecodeIsTheBytes : Obligations.EncodeOfDecodeIsTheBytes := by
  intro st bytes rest i h
  cases st with
  | host =>
    obtain ⟨hframe, rfl⟩ := decode_host_eq_ok h
    simpa using encode_of_decodeFrame hframe
  | header => exact encode_of_decodeHeader h
  | records => exact encode_of_decodeRecord h

/-! ## Whole tables -/

theorem encode_of_decodeRecords {n : Nat} {bytes rest : List Byte} {is : List Instr}
    (h : decodeRecords n bytes = .ok (is, rest)) :
    (∀ i ∈ is, i.stream = .records ∧ i.wellFormed = true) ∧ is.length = n ∧ bytes = is.flatMap encode ++ rest := by
  induction n generalizing bytes is with
  | zero =>
    cases h
    simp
  | succ n ih =>
    simp only [decodeRecords] at h
    split at h
    · cases h
    · rename_i i bytes' hi
      split at h
      · cases h
      · rename_i is' tail his
        cases h
        obtain ⟨hwf, hstream, hbytes⟩ := encode_of_decodeRecord hi
        obtain ⟨hall, hlen, hbytes'⟩ := ih his
        refine ⟨List.forall_mem_cons.2 ⟨⟨hstream, hwf⟩, hall⟩, by simp [hlen], ?_⟩
        rw [hbytes, hbytes', List.flatMap_cons, List.append_assoc]

/-- A table that decodes is its count byte and bytes that hold as many records. -/
theorem decodeTable_eq_ok {table : List Byte} {is : List Instr} (h : decodeTable table = .ok is) :
    ∃ n bytes trailing, table = n :: bytes ∧ decodeRecords n.toNat bytes = .ok (is, trailing) := by
  unfold decodeTable at h
  split at h
  · cases h
  · split at h
    · cases h
    · rename_i n bytes _ _ trailing hrecords
      cases h
      exact ⟨n, bytes, trailing, rfl, hrecords⟩

/-- Settles O4: by induction over the records the count byte announces. -/
theorem tableIsCountAndRecords : Obligations.TableIsCountAndRecords := by
  intro table is h
  obtain ⟨n, bytes, trailing, rfl, hrecords⟩ := decodeTable_eq_ok h
  obtain ⟨hall, hlen, rfl⟩ := encode_of_decodeRecords hrecords
  exact ⟨hall, n, trailing, hlen.symm, rfl⟩

/-- Settles O5: each word is run through the decoder. -/
theorem specWordsDecode : Obligations.SpecWordsDecode := by
  refine ⟨?_, ?_, ?_, ?_, ?_, ?_⟩ <;> decide

end Sys2Proof
end

section
/-! PROOFS. How a piece of pseudocode can end, and what each bus micro-operation has done by then: it has sent all of its events and
goes on, or it broke off behind an initial piece of them (40_bus_transport.md R78 to R83, 60_exceptions.md R148, R149). -/

namespace Sys2Proof.Machine

/-! ## The two endings -/

/-- The state left has D if the pseudocode returned, and H if it broke off. -/
def Progress.Ends (D H : State → Prop) (a : Progress) : Prop :=
  match a with
  | .done t => D t
  | .halted t => H t

theorem Progress.Ends.mono {D D' H H' : State → Prop} {a : Progress} (ha : a.Ends D H) (hD : ∀ t, D t → D' t)
    (hH : ∀ t, H t → H' t) : a.Ends D' H' := by
  cases a with
  | done t => exact hD t ha
  | halted t => exact hH t ha

theorem Progress.Ends.andThen {D D' H : State → Prop} {a : Progress} {f : State → Progress} (ha : a.Ends D H)
    (hf : ∀ t, D t → (f t).Ends D' H) : (a.andThen f).Ends D' H := by
  cases a with
  | done t => exact hf t ha
  | halted t => exact ha

/-- What both endings have in common holds of the state left. -/
theorem Progress.Ends.state {P : State → Prop} {a : Progress} (ha : a.Ends P P) : P a.state := by
  cases a with
  | done t => exact ha
  | halted t => exact ha

/-! ## The line levels a history tells of -/

/-- What the history tells of the lines. -/
def lineView (s : State) : LineView := LineView.start.afterAll s.hist

/-- The level registers of CS and DC hold the last levels driven. -/
abbrev LevelsMatch (s : State) : Prop := (∀ b, (lineView s).cs = some b → s.cs = b) ∧ ∀ b, (lineView s).dc = some b → s.dc = b

@[simp] theorem LineView.afterAll_append (v : LineView) (es fs : List Event) :
    v.afterAll (es ++ fs) = (v.afterAll es).afterAll fs := List.foldl_append

theorem lineView_of_hist {s t : State} {es : List Event} (h : t.hist = s.hist ++ es) : lineView t = (lineView s).afterAll es := by
  rw [lineView, h, LineView.afterAll_append, lineView]

theorem lineView_of_event {s t : State} {e : Event} (h : t.hist = s.hist ++ [e]) : lineView t = (lineView s).after e :=
  lineView_of_hist h

theorem levelsMatch_driveCs (v : Bool) {s : State} (h : LevelsMatch s) : LevelsMatch (driveLine .cs v s) := by
  have hview : lineView (driveLine .cs v s) = (lineView s).after (.line .cs v) := lineView_of_event rfl
  rw [LevelsMatch, hview]
  exact ⟨fun b hb => Option.some.inj hb, h.2⟩

theorem levelsMatch_driveDc (v : Bool) {s : State} (h : LevelsMatch s) : LevelsMatch (driveLine .dc v s) := by
  have hview : lineView (driveLine .dc v s) = (lineView s).after (.line .dc v) := lineView_of_event rfl
  rw [LevelsMatch, hview]
  exact ⟨h.1, fun b hb => Option.some.inj hb⟩

/-! ## What has happened on the bus -/

/-- All of these events have been sent, which takes an initialised engine, and the operation in progress goes on. -/
structure Sent (es : List Event) (s t : State) : Prop where
  frame : t = { s with cs := t.cs, dc := t.dc, hist := s.hist ++ es, busLeft := t.busLeft }
  levels : LevelsMatch s → LevelsMatch t
  powered : es = [] ∨ s.initialised = true

/-- The operation in progress broke off, by a raise or in a byte that never completes, behind an initial piece of these events. -/
structure BrokeOff (es : List Event) (s t : State) : Prop where
  frame : BusFrame s t
  events : ∃ sent, sent <+: es ∧ t.hist = s.hist ++ sent
  levels : LevelsMatch s → LevelsMatch t
  powered : t.hist = s.hist ∨ s.initialised = true
  ending : (t.fault ≠ none ∧ t.phase = .idle ∧ t.stuck = s.stuck)
    ∨ (s.initialised = true ∧ t.stuck ≠ none ∧ t.fault = s.fault ∧ t.phase = s.phase)

theorem Sent.refl (s : State) : Sent [] s s := ⟨by simp, id, .inl rfl⟩

theorem Sent.hist {es : List Event} {s t : State} (h : Sent es s t) : t.hist = s.hist ++ es := by rw [h.frame]

theorem Sent.params {es : List Event} {s t : State} (h : Sent es s t) : t.params = s.params := by rw [h.frame]

theorem Sent.initialised {es : List Event} {s t : State} (h : Sent es s t) : t.initialised = s.initialised := by rw [h.frame]

theorem Sent.busFrame {es : List Event} {s t : State} (h : Sent es s t) : BusFrame s t := by
  rw [h.frame]
  exact ⟨List.prefix_append _ _, rfl⟩

theorem Sent.ready {es : List Event} {s t : State} (h : Sent es s t) (hs : Ready s) : Ready t := by rw [h.frame]; exact hs

theorem Sent.trans {es fs : List Event} {s t u : State} (h : Sent es s t) (h' : Sent fs t u) : Sent (es ++ fs) s u where
  frame := by
    have hframe := h'.frame
    rw [h.frame] at hframe
    simpa using hframe
  levels hs := h'.levels (h.levels hs)
  powered := by
    rcases h.powered with rfl | hi
    · rw [List.nil_append, ← h.initialised]
      exact h'.powered
    · exact .inr hi

theorem BrokeOff.not_ready {es : List Event} {s t : State} (h : BrokeOff es s t) : ¬ Ready t := by
  rintro ⟨hstuck, hfault⟩
  rcases h.ending with ⟨hf, -⟩ | ⟨-, hs, -⟩
  · exact hf hfault
  · exact hs hstuck

/-- Breaking off in a second part leaves all the events of the first. -/
theorem Sent.brokeOff {es fs : List Event} {s t u : State} (h : Sent es s t) (h' : BrokeOff fs t u) : BrokeOff (es ++ fs) s u where
  frame := h.busFrame.trans h'.frame
  events := by
    obtain ⟨sent, hsent, hhist⟩ := h'.events
    exact ⟨es ++ sent, (List.prefix_append_right_inj es).2 hsent, by rw [hhist, h.hist, List.append_assoc]⟩
  levels hs := h'.levels (h.levels hs)
  powered := by
    rcases h.powered with rfl | hi
    · rw [← h.initialised, ← List.append_nil s.hist, ← h.hist]
      exact h'.powered
    · exact .inr hi
  ending := by
    have hending := h'.ending
    rw [h.frame] at hending
    exact hending

/-- Breaking off in a first part is breaking off in the whole. -/
theorem BrokeOff.append {es : List Event} {s t : State} (h : BrokeOff es s t) (fs : List Event) : BrokeOff (es ++ fs) s t where
  frame := h.frame
  events := by
    obtain ⟨sent, hsent, hhist⟩ := h.events
    exact ⟨sent, hsent.trans (List.prefix_append _ _), hhist⟩
  levels := h.levels
  powered := h.powered
  ending := h.ending

theorem BrokeOff.raise (es : List Event) (c : Cause) (s : State) : BrokeOff es s (raise c s).state where
  frame := .raise c s
  events := ⟨[], List.nil_prefix, by simp⟩
  levels := id
  powered := .inl rfl
  ending := .inl ⟨Option.some_ne_none c, rfl, rfl⟩

theorem BrokeOff.hang (es : List Event) (b : Byte) {s : State} (hi : s.initialised = true) : BrokeOff es s (hang b s).state where
  frame := .hang b s
  events := ⟨[], List.nil_prefix, by simp⟩
  levels := id
  powered := .inl rfl
  ending := .inr ⟨hi, Option.some_ne_none b, rfl, rfl⟩

/-- The piece of pseudocode a, begun in s, sends these events, or breaks off on the way. -/
abbrev Progress.Sends (es : List Event) (s : State) (a : Progress) : Prop := a.Ends (Sent es s) (BrokeOff es s)

theorem Progress.Sends.andThen {es fs : List Event} {s : State} {a : Progress} {f : State → Progress} (ha : a.Sends es s)
    (hf : ∀ t, Sent es s t → (f t).Sends fs t) : (a.andThen f).Sends (es ++ fs) s :=
  (ha.mono (fun _ h => h) fun _ h => h.append fs).andThen fun t ht =>
    (hf t ht).mono (fun _ h => ht.trans h) fun _ h => ht.brokeOff h

/-- Events that are sent at once come before those of what follows. -/
theorem Sent.sends {es fs : List Event} {s t : State} {a : Progress} (h : Sent es s t) (ha : a.Sends fs t) : a.Sends (es ++ fs) s :=
  Progress.Ends.mono ha (fun _ h' => h.trans h') fun _ h' => h.brokeOff h'

theorem sends_raise (es : List Event) (c : Cause) (s : State) : (raise c s).Sends es s := BrokeOff.raise es c s

/-! ## The micro-operations -/

theorem sent_driveCs (v : Bool) {s : State} (hi : s.initialised = true) : Sent [.line .cs v] s (driveLine .cs v s) :=
  ⟨rfl, levelsMatch_driveCs v, .inr hi⟩

theorem sent_driveDc (v : Bool) {s : State} (hi : s.initialised = true) : Sent [.line .dc v] s (driveLine .dc v s) :=
  ⟨rfl, levelsMatch_driveDc v, .inr hi⟩

/-- DC, then CS low: how a transaction and a burst begin. -/
theorem sent_open (dc : Bool) {s : State} (hi : s.initialised = true) :
    Sent [.line .dc dc, .line .cs false] s (driveLine .cs false (driveLine .dc dc s)) :=
  (sent_driveDc dc hi).trans (sent_driveCs false hi)

theorem busWrite_sends (b : Byte) (s : State) : (busWrite b s).Sends [.byte b] s := by
  unfold busWrite
  split
  · exact sends_raise _ _ _
  · rename_i hi
    split
    · split
      · exact BrokeOff.hang _ b (by simpa using hi)
      · exact sends_raise _ _ _
    · refine ⟨rfl, fun h => ?_, .inr (by simpa using hi)⟩
      have hview : lineView (emit (.byte b) { s with busLeft := busSpendOne s.busLeft }) = (lineView s).after (.byte b) :=
        lineView_of_event rfl
      rw [LevelsMatch, hview]
      exact h

/-- A transaction: DC at the given level, CS low, one byte, CS high. -/
theorem transaction_sends (dc : Bool) (b : Byte) {s : State} (hi : s.initialised = true) :
    ((busWrite b (driveLine .cs false (driveLine .dc dc s))).andThen fun t => .done (driveLine .cs true t)).Sends
      [.line .dc dc, .line .cs false, .byte b, .line .cs true] s :=
  (sent_open dc hi).sends ((busWrite_sends b _).andThen fun _ ht => sent_driveCs true (ht.initialised.trans hi))

theorem sendCommand_sends (b : Byte) (s : State) : (sendCommand b s).Sends (commandEvents b) s := by
  unfold sendCommand
  split
  · exact sends_raise _ _ _
  · exact transaction_sends false b (Bool.not_eq_false _ ▸ ‹_›)

theorem sendData_sends (b : Byte) (s : State) : (sendData b s).Sends (dataEvents b) s := by
  unfold sendData
  split
  · exact sends_raise _ _ _
  · exact transaction_sends true b (Bool.not_eq_false _ ▸ ‹_›)

theorem openBurst_sends (s : State) : (openBurst s).Sends [.line .dc true, .line .cs false] s := by
  unfold openBurst
  split
  · exact sends_raise _ _ _
  · exact sent_open true (Bool.not_eq_false _ ▸ ‹_›)

theorem burstSamples_sends (vs : List Colour) (s : State) : (burstSamples vs s).Sends (sampleEvents vs) s := by
  induction vs generalizing s with
  | nil => exact Sent.refl s
  | cons v vs ih =>
    have hsample : (burstSample v s).Sends ([.byte (hi8 v)] ++ [.byte (lo8 v)]) s :=
      (busWrite_sends _ s).andThen fun t _ => busWrite_sends _ t
    exact hsample.andThen fun t _ => ih t

theorem send16_sends (c : Int) (s : State) : (send16 c s).Sends (wordEvents c) s :=
  (sendData_sends _ s).andThen fun t _ => sendData_sends _ t

theorem setAddressingWindow_sends (x0 y0 x1 y1 : Int) (s : State) :
    (setAddressingWindow x0 y0 x1 y1 s).Sends (windowEvents s.params x0 y0 x1 y1) s := by
  have hevents : windowEvents s.params x0 y0 x1 y1 = commandEvents s.params.cmdColset ++ (wordEvents y0 ++ (wordEvents y1
      ++ (commandEvents s.params.cmdRowset ++ (wordEvents x0 ++ (wordEvents x1 ++ (commandEvents s.params.cmdRamwr
      ++ [.line .dc true, .line .cs false])))))) := by simp only [windowEvents, List.append_assoc]
  rw [hevents]
  refine (sendCommand_sends _ s).andThen fun t ht => (send16_sends _ t).andThen fun u hu => (send16_sends _ u).andThen fun v hv => ?_
  rw [← ht.params, ← hu.params, ← hv.params]
  refine (sendCommand_sends _ v).andThen fun t ht => (send16_sends _ t).andThen fun u hu => (send16_sends _ u).andThen fun w hw => ?_
  rw [← ht.params, ← hu.params, ← hw.params]
  exact (sendCommand_sends _ w).andThen fun t _ => openBurst_sends t

/-! ## Whole drawings -/

/-- Window, samples, release of CS: what a blit and a fill do on the bus. -/
theorem drawing_sends (x0 y0 x1 y1 : Int) (vs : Params → List Colour) (s : State) :
    ((setAddressingWindow x0 y0 x1 y1 s).andThen fun t => (burstSamples (vs t.params) t).andThen fun t => .done (closeBurst t)).Sends
      (drawEvents s.params x0 y0 x1 y1 (vs s.params)) s := by
  have hevents : drawEvents s.params x0 y0 x1 y1 (vs s.params)
      = windowEvents s.params x0 y0 x1 y1 ++ (sampleEvents (vs s.params) ++ [.line .cs true]) := by
    simp only [drawEvents, List.append_assoc]
  rw [hevents]
  refine (setAddressingWindow_sends _ _ _ _ s).andThen fun t ht => ?_
  have hi : t.initialised = true := ht.initialised.trans (ht.powered.resolve_left (by simp [windowEvents]))
  rw [← ht.params]
  exact (burstSamples_sends _ t).andThen fun u hu => sent_driveCs true (hu.initialised.trans hi)

/-- The events of the cell a character takes at (x, y). -/
def cellEvents (p : Params) (x y : Int) (code : Byte) (fg bg : Colour) : List Event :=
  drawEvents p x y (x + p.textWidth - 1) (y + p.textHeight - 1) (glyphSamples p code fg bg)

theorem blitGlyph_sends (x y : Int) (code : Byte) (fg bg : Colour) (s : State) :
    (blitGlyph x y code fg bg s).Sends (cellEvents s.params x y code fg bg) s := by
  unfold blitGlyph
  simp only
  split
  · exact drawing_sends x y _ _ (fun p => glyphSamples p code fg bg) s
  · exact sends_raise _ _ _

/-- A cell that meets the surface sends its events, one that does not sends none. -/
theorem drawCell_sends (x y : Int) (code : Byte) (fg bg : Colour) (s : State) :
    (drawCell x y code fg bg s).Sends (if CellOutside s.params x y then [] else cellEvents s.params x y code fg bg) s := by
  by_cases hout : CellOutside s.params x y
  · rw [drawCell_outside x y code fg bg s hout, if_pos hout]
    exact Sent.refl s
  · rw [drawCell_meets x y code fg bg s hout, if_neg hout]
    exact blitGlyph_sends x y code fg bg s

/-- A fill is a drawing, then its status. -/
theorem sendFill_eq (x y we he : Int) (clipped : Bool) (colour : Colour) (s : State) :
    sendFill x y we he clipped colour s
      = ((setAddressingWindow x y (x + we) (y + he) s).andThen fun t =>
          (burstSamples (List.replicate ((we + 1) * (he + 1)).toNat colour) t).andThen fun t => .done (closeBurst t)).andThen
        fun t => .done (setStatus (fillStatus clipped) t) := by
  simp only [sendFill, Progress.andThen_assoc, Progress.andThen_done]

/-- The events of a fill. -/
def fillEvents (p : Params) (x y we he : Int) (colour : Colour) : List Event :=
  drawEvents p x y (x + we) (y + he) (List.replicate ((we + 1) * (he + 1)).toNat colour)

end Sys2Proof.Machine
end

section
/-! PROOFS. The init table's records: the byte-wise interpreter against the decoded record, what a record leaves, and obligations O17
to O21 (41_command_protocol.md R91 to R96). -/

namespace Sys2Proof.Machine

theorem Progress.andThen_congr {a : Progress} {f g : State → Progress} (h : ∀ t, a = .done t → f t = g t) :
    a.andThen f = a.andThen g := by
  cases a with
  | done t => exact h t rfl
  | halted t => rfl

theorem busCompletes_of_le {j k : Nat} {o : Option Nat} (hjk : j ≤ k) (h : busCompletes k o = true) : busCompletes j o = true := by
  cases o with
  | none => rfl
  | some n =>
    simp only [busCompletes, decide_eq_true_eq] at h ⊢
    omega

/-! ## The bytes of the table that are still to be read -/

/-- The table from tp on. -/
def unread (s : State) : List Byte := s.params.initTable.drop s.tp

theorem unread_advanceTp (n : Nat) (s : State) : unread (advanceTp n s) = (unread s).drop n := List.drop_drop.symm

theorem unread_of_busFrame {s t : State} (h : BusFrame s t) : unread t = unread s := by
  rw [h.2]
  rfl

theorem readTable_of_unread_cons {k : Byte → State → Progress} {s : State} {b : Byte} {rest : List Byte}
    (h : unread s = b :: rest) : readTable k s = k b (advanceTp 1 s) := by
  refine readTable_byte ?_
  have hhead : (unread s)[0]? = some b := by rw [h]; rfl
  rwa [unread, List.getElem?_drop, Nat.add_zero] at hhead

theorem readTable_of_unread_nil {k : Byte → State → Progress} {s : State} (h : unread s = []) :
    readTable k s = raise (.decodeError s.tp) s := readTable_end (List.drop_eq_nil_iff.1 h)

/-- Which case a read of the table is in. -/
theorem readTable_cases (k : Byte → State → Progress) (s : State) :
    (s.params.initTable.length ≤ s.tp ∧ readTable k s = raise (.decodeError s.tp) s)
      ∨ ∃ b, s.tp < s.params.initTable.length ∧ readTable k s = k b (advanceTp 1 s) := by
  by_cases h : s.tp < s.params.initTable.length
  · exact .inr ⟨_, h, readTable_byte (List.getElem?_eq_getElem h)⟩
  · exact .inl ⟨Nat.not_lt.1 h, readTable_end (Nat.not_lt.1 h)⟩

/-! ## The arguments -/

theorem busFrame_of_sendData {b : Byte} {s t : State} (h : sendData b s = .done t) : BusFrame s t := by
  have hframe := sendData_frame b s
  rwa [h] at hframe

theorem busFrame_of_sendCommand {b : Byte} {s t : State} (h : sendCommand b s = .done t) : BusFrame s t := by
  have hframe := sendCommand_frame b s
  rwa [h] at hframe

theorem unread_of_sendArguments {args : List Byte} {s t : State} (h : sendArguments args s = .done t) :
    unread t = (unread s).drop args.length := by
  induction args generalizing s with
  | nil =>
    cases h
    rfl
  | cons a args ih =>
    simp only [sendArguments] at h
    cases hdata : sendData a (advanceTp 1 s) with
    | halted u => rw [hdata] at h; cases h
    | done u =>
      rw [hdata] at h
      rw [ih h, unread_of_busFrame (busFrame_of_sendData hdata), unread_advanceTp, List.drop_drop, List.length_cons, Nat.add_comm]

/-- With all the arguments in the table, the byte-wise loop sends them as the decoded record does. -/
theorem interpretArguments_of_whole {args tail : List Byte} {s : State} (h : unread s = args ++ tail) :
    interpretArguments args.length s = sendArguments args s := by
  induction args generalizing s with
  | nil => rfl
  | cons a args ih =>
    rw [List.length_cons, interpretArguments, sendArguments, readTable_of_unread_cons h]
    refine Progress.andThen_congr fun t ht => ih ?_
    rw [unread_of_busFrame (busFrame_of_sendData ht), unread_advanceTp, h]
    rfl

/-- With too few of them, it sends what there is and raises DecodeError. -/
theorem interpretArguments_of_short {n : Nat} {rest : List Byte} {s : State} (h : unread s = rest) (hshort : rest.length < n) :
    interpretArguments n s = (sendArguments rest s).andThen fun t => raise (.decodeError t.tp) t := by
  induction rest generalizing s n with
  | nil =>
    cases n with
    | zero => exact absurd hshort (Nat.lt_irrefl 0)
    | succ n => exact readTable_of_unread_nil h
  | cons a rest ih =>
    cases n with
    | zero => exact absurd hshort (Nat.not_lt_zero _)
    | succ n =>
      rw [interpretArguments, sendArguments, readTable_of_unread_cons h, Progress.andThen_assoc]
      refine Progress.andThen_congr fun t ht => ih ?_ (Nat.lt_of_succ_lt_succ hshort)
      rw [unread_of_busFrame (busFrame_of_sendData ht), unread_advanceTp, h]
      rfl

/-! ## The record -/

/-- What the interpreter does once both header bytes are there. -/
theorem interpretRecord_of_header {s : State} {cmd b : Byte} {rest : List Byte} (h : unread s = cmd :: b :: rest) :
    interpretRecord s = (sendCommand cmd (advanceTp 2 s)).andThen fun t => (interpretArguments (argCount b) t).andThen fun t =>
      if delayFlag b then readTable (fun d t => .done (endRecord (delayFor (delayMs d) t))) t else .done (endRecord t) := by
  have hnext : unread (advanceTp 1 s) = b :: rest := by rw [unread_advanceTp, h]; rfl
  rw [interpretRecord, readTable_of_unread_cons h, readTable_of_unread_cons hnext]
  rfl

theorem interpretRecord_of_missing_header {s : State} (h : unread s = [] ∨ ∃ cmd, unread s = [cmd]) :
    interpretRecord s = raise (.decodeError (s.tp + (unread s).length)) (advanceTp (unread s).length s) := by
  rcases h with h | ⟨cmd, h⟩
  · rw [interpretRecord, readTable_of_unread_nil h, h]
    rfl
  · have hnext : unread (advanceTp 1 s) = [] := by rw [unread_advanceTp, h]; rfl
    rw [interpretRecord, readTable_of_unread_cons h, readTable_of_unread_nil hnext, h]
    rfl

/-- After the command byte the arguments are next. -/
theorem unread_of_command {s t : State} {cmd b cmd' : Byte} {rest : List Byte} (h : unread s = cmd :: b :: rest)
    (ht : sendCommand cmd' (advanceTp 2 s) = .done t) : unread t = rest := by
  rw [unread_of_busFrame (busFrame_of_sendCommand ht), unread_advanceTp, h]
  rfl

theorem interpretRecord_of_record {s : State} {cmd : Byte} {args tail : List Byte} (hargs : args.length ≤ 127)
    (h : unread s = encode (.record cmd args) ++ tail) : interpretRecord s = body (.record cmd args) s := by
  have hheader : unread s = cmd :: countByte false args.length :: (args ++ tail) := h
  rw [interpretRecord_of_header hheader, argCount_countByte false _ hargs, delayFlag_countByte false _ hargs]
  simp only [body, recordBody, Progress.andThen_assoc]
  refine Progress.andThen_congr fun t ht => ?_
  rw [interpretArguments_of_whole (unread_of_command hheader ht)]
  rfl

theorem interpretRecord_of_recordDelay {s : State} {cmd d : Byte} {args tail : List Byte} (hargs : args.length ≤ 127)
    (h : unread s = encode (.recordDelay cmd args d) ++ tail) : interpretRecord s = body (.recordDelay cmd args d) s := by
  have hheader : unread s = cmd :: countByte true args.length :: (args ++ d :: tail) := by simpa [encode] using h
  rw [interpretRecord_of_header hheader, argCount_countByte true _ hargs, delayFlag_countByte true _ hargs]
  simp only [body, recordBody, Progress.andThen_assoc]
  refine Progress.andThen_congr fun t ht => ?_
  have hunread := unread_of_command hheader ht
  rw [interpretArguments_of_whole hunread]
  refine Progress.andThen_congr fun u hu => ?_
  have hdelay : unread u = d :: tail := by rw [unread_of_sendArguments hu, hunread, List.drop_left]
  rw [if_pos trivial, readTable_of_unread_cons hdelay]
  rfl

/-- A record that was decoded whole: its meaning is the interpreter's. -/
theorem interpretRecord_of_decoded {s : State} {i : Instr} {tail : List Byte} (h : decodeRecord (unread s) = .ok (i, tail)) :
    interpretRecord s = body i s := by
  obtain ⟨hwf, hstream, hbytes⟩ := encode_of_decodeRecord h
  cases i with
  | record cmd args => exact interpretRecord_of_record (of_decide_eq_true hwf) hbytes
  | recordDelay cmd args d => exact interpretRecord_of_recordDelay (of_decide_eq_true hwf) hbytes
  | _ => cases hstream

/-- Settles O20: a record the table holds whole is its decoded meaning, any other is handed to the interpreter by `fetchRecord`. -/
theorem recordStepIsTheByteInterpreter : Obligations.RecordStepIsTheByteInterpreter := by
  intro s hready hphase hrc
  rw [step_ready s hready, hphase]
  simp only [fetchRecord, if_neg hrc]
  split
  · rename_i i tail hi
    rw [exec_ready i s hready, interpretRecord_of_decoded hi]
  · rfl

/-! ## Records whose bytes complete -/

/-- Settles O17: the record's bytes, then the count-down. -/
theorem recordSendsCommandThenArguments : Obligations.RecordSendsCommandThenArguments := by
  intro cmd args s hready hi hb
  simp only [exec_ready _ s hready, body, recordBody_done cmd args s hi hb, Progress.andThen_done]
  rfl

theorem delayMs_eq (d : Byte) : delayMs d = if d = 255#8 then 500 else d.toNat := by
  have hd : d.toNat = 255 ↔ d = 255#8 := by rw [← BitVec.toNat_inj]; rfl
  simp only [delayMs, hd]

/-- Settles O18: as for REC, then the delay byte is read and waited for. -/
theorem recordDelayEndsInItsDelay : Obligations.RecordDelayEndsInItsDelay := by
  intro cmd d args s hready hi hb
  have htp : s.tp + 2 + args.length + 1 = s.tp + 3 + args.length := by omega
  simp only [exec_ready _ s hready, body, recordBody_done cmd args s hi hb, Progress.andThen_done, Progress.state_done, takeDelay,
    delayFor, advanceTp, emit, endRecord, delayMs_eq, htp]
  rfl

/-! ## A command byte that never completes -/

theorem busWrite_hangs {b : Byte} {s : State} (hi : s.initialised = true) (hb : s.busLeft = some 0)
    (ht : s.params.busTimeout = none) : busWrite b s = hang b s := by
  rw [busWrite, if_neg (by simp [hi]), if_pos hb, ht]

theorem busWrite_times_out {b : Byte} {s : State} (hi : s.initialised = true) (hb : s.busLeft = some 0)
    (ht : s.params.busTimeout ≠ none) : busWrite b s = raise (.peripheralTimeout b) s := by
  obtain ⟨bound, hbound⟩ := Option.ne_none_iff_exists'.1 ht
  rw [busWrite, if_neg (by simp [hi]), if_pos hb, hbound]

/-- Nothing follows a record's stalled command. -/
theorem recordBody_andThen_of_stalled (cmd : Byte) (args : List Byte) {s : State} (f : State → Progress)
    (hi : s.initialised = true) (hb : s.busLeft = some 0) :
    (recordBody cmd args s).andThen f = busWrite cmd (driveLine .cs false (driveLine .dc false (advanceTp 2 s))) := by
  have hskip : ∀ g, (busWrite cmd (driveLine .cs false (driveLine .dc false (advanceTp 2 s)))).andThen g
      = busWrite cmd (driveLine .cs false (driveLine .dc false (advanceTp 2 s))) :=
    fun g => busWrite_andThen_of_stalled cmd _ g hi hb
  rw [recordBody, sendCommand_of_stalled cmd (advanceTp 2 s) hi hb, hskip, hskip]

theorem exec_of_stalled_command {i : Instr} {cmd : Byte} {args : List Byte} {s : State} (hready : Ready s)
    (hi : s.initialised = true) (hb : s.busLeft = some 0) (hrecord : i = .record cmd args ∨ ∃ d, i = .recordDelay cmd args d) :
    exec i s = .next (busWrite cmd (driveLine .cs false (driveLine .dc false (advanceTp 2 s)))).state := by
  rw [exec_ready i s hready]
  rcases hrecord with rfl | ⟨d, rfl⟩
  · simp only [body, recordBody_andThen_of_stalled cmd args _ hi hb]
  · simp only [body, recordBody_andThen_of_stalled cmd args _ hi hb]

/-- Settles O19: the one byte hangs or times out, with both lines driven low before it. -/
theorem stalledRecordLeavesTheLineLow : Obligations.StalledRecordLeavesTheLineLow := by
  intro i cmd args s hready hi hb hrecord
  rw [exec_of_stalled_command hready hi hb hrecord, driveLine_dc_cs_eq]
  refine ⟨fun ht => ?_, fun ht => ?_⟩
  · rw [busWrite_hangs (by exact hi) (by exact hb) (by exact ht)]
    rfl
  · rw [busWrite_times_out (by exact hi) (by exact hb) (by exact ht)]
    rfl

/-! ## A table that ends inside a record -/

/-- Where a record is cut short: in its header, or behind it. -/
theorem truncated_of_decodeRecord {bytes : List Byte} {r : Reject} (h : decodeRecord bytes = .error r) :
    (bytes = [] ∨ ∃ cmd, bytes = [cmd])
      ∨ ∃ cmd b rest, bytes = cmd :: b :: rest ∧ rest.length < argCount b + (if delayFlag b then 1 else 0) := by
  match bytes with
  | [] => exact .inl (.inl rfl)
  | [cmd] => exact .inl (.inr ⟨cmd, rfl⟩)
  | cmd :: b :: rest =>
    refine .inr ⟨cmd, b, rest, rfl, Nat.not_le.1 fun hwhole => ?_⟩
    cases hflag : delayFlag b with
    | false =>
      rw [decodeRecord_of_noDelay cmd b rest hflag (by simpa [hflag] using hwhole)] at h
      cases h
    | true =>
      have hlt : argCount b < rest.length := by simpa [hflag] using hwhole
      have hsplit : rest = rest.take (argCount b) ++ rest[argCount b] :: rest.drop (argCount b + 1) := by
        rw [← List.drop_eq_getElem_cons hlt, List.take_append_drop]
      rw [hsplit, decodeRecord_of_delay _ _ _ _ _ hflag (by simp; omega)] at h
      cases h

/-- Both ways a record can be cut short behind its header: the interpreter sends the command and the arguments that are there and
raises DecodeError at the end of the table. -/
theorem interpretRecord_of_short {s : State} {cmd b : Byte} {rest : List Byte} (h : unread s = cmd :: b :: rest)
    (hshort : rest.length < argCount b + (if delayFlag b then 1 else 0)) :
    interpretRecord s = (recordBody cmd rest s).andThen fun t => raise (.decodeError t.tp) t := by
  rw [interpretRecord_of_header h, recordBody, Progress.andThen_assoc]
  refine Progress.andThen_congr fun t ht => ?_
  have hrest := unread_of_command h ht
  by_cases hargs : rest.length < argCount b
  · rw [interpretArguments_of_short hrest hargs, Progress.andThen_assoc]
    rfl
  · have hflag : delayFlag b = true := by
      by_contra hno
      simp [hno] at hshort
      omega
    have hcount : argCount b = rest.length := by
      simp [hflag] at hshort
      omega
    rw [hcount, interpretArguments_of_whole (tail := []) (by simpa using hrest)]
    refine Progress.andThen_congr fun u hu => ?_
    have hnil : unread u = [] := by rw [unread_of_sendArguments hu, hrest, List.drop_length]
    rw [if_pos hflag, readTable_of_unread_nil hnil]

theorem tp_add_length_unread {s : State} (htp : s.tp ≤ s.params.initTable.length) :
    s.tp + (unread s).length = s.params.initTable.length := by
  rw [unread, List.length_drop]
  omega

/-- Settles O21: by where the record is cut short. -/
theorem truncatedRecordFaultsAfterWhatWasSent : Obligations.TruncatedRecordFaultsAfterWhatWasSent := by
  intro s hready hphase hrc hi hb htp htrunc
  have hlen := tp_add_length_unread htp
  rw [recordStepIsTheByteInterpreter s hready hphase hrc]
  refine ⟨_, rfl, ?_⟩
  change decodeRecord (unread s) = _ at htrunc
  change _ ∧ _ ∧ _ ∧ _ ∧ _ ∧ _ ∧ _ = s.hist ++ (match unread s with
    | cmd :: b :: rest => commandEvents cmd ++ (rest.take (argCount b)).flatMap dataEvents
    | _ => [])
  rcases truncated_of_decodeRecord htrunc with hheader | ⟨cmd, b, rest, hbytes, hshort⟩
  · rw [interpretRecord_of_missing_header hheader, hlen]
    rcases hheader with h | ⟨cmd, h⟩
    · exact ⟨rfl, hlen, rfl, rfl, rfl, hready.1, by simp [h, raise]⟩
    · exact ⟨rfl, hlen, rfl, rfl, rfl, hready.1, by simp [h, raise]⟩
  · have hcount := argCount_le b
    have hrest : rest.length ≤ argCount b := by
      split at hshort <;> omega
    have hend : s.tp + 2 + rest.length = s.params.initTable.length := by
      rw [← hlen, hbytes]
      simp
      omega
    rw [interpretRecord_of_short hbytes hshort, recordBody_done cmd rest s hi (busCompletes_of_le (by omega) hb), hbytes,
      Progress.andThen_done, hend]
    exact ⟨rfl, rfl, rfl, rfl, rfl, hready.1, by simp [raise, List.take_of_length_le hrest]⟩

end Sys2Proof.Machine
end

section
/-! PROOFS. What a host operation, a record and a whole step can leave, said once for the invariants and frames: the outcomes of the
drawings, of WRITE and of every host operation but INIT, the rule for the record interpreter, and the cases of a step. -/

namespace Sys2Proof.Machine

/-! ## Drawings -/

/-- The events of one whole drawing, or none. -/
def IsDrawing (p : Params) (es : List Event) : Prop := es = [] ∨ ∃ x0 y0 x1 y1 vs, es = drawEvents p x0 y0 x1 y1 vs

/-- A drawing operation returned: its events have been sent and its status is set. -/
def Drew (s t : State) : Prop := ∃ es u st, IsDrawing s.params es ∧ Sent es s u ∧ t = setStatus st u

/-- A drawing operation broke off. -/
def DrawingBrokeOff (s t : State) : Prop := ∃ es, IsDrawing s.params es ∧ BrokeOff es s t

theorem drawCell_isDrawing (x y : Int) (code : Byte) (fg bg : Colour) (s : State) :
    ∃ es, IsDrawing s.params es ∧ (drawCell x y code fg bg s).Sends es s := by
  refine ⟨_, ?_, drawCell_sends x y code fg bg s⟩
  split
  · exact .inl rfl
  · exact .inr ⟨_, _, _, _, _, rfl⟩

theorem drawCharBody_ends (x y : Int) (code : Byte) (fg bg : Colour) (s : State) :
    (drawCharBody x y code fg bg s).Ends (Drew s) (DrawingBrokeOff s) := by
  obtain ⟨es, hes, hsends⟩ := drawCell_isDrawing x y code fg bg s
  exact (hsends.mono (fun _ h => h) fun _ h => ⟨es, hes, h⟩).andThen fun u hu => ⟨es, u, _, hes, hu, rfl⟩

theorem sendFill_ends (x y we he : Int) (clipped : Bool) (colour : Colour) (s : State) :
    (sendFill x y we he clipped colour s).Ends (Drew s) (DrawingBrokeOff s) := by
  have hes : IsDrawing s.params (fillEvents s.params x y we he colour) := .inr ⟨_, _, _, _, _, rfl⟩
  have hsends := drawing_sends x y (x + we) (y + he) (fun _ => List.replicate ((we + 1) * (he + 1)).toNat colour) s
  rw [sendFill_eq]
  exact (hsends.mono (fun _ h => h) fun _ h => ⟨_, hes, h⟩).andThen fun u hu => ⟨_, u, _, hes, hu, rfl⟩

theorem drawingBrokeOff_raise (c : Cause) (s : State) : DrawingBrokeOff s (raise c s).state := ⟨[], .inl rfl, .raise [] c s⟩

theorem fillRectBody_ends (x y w h : Int) (colour : Colour) (s : State) :
    (fillRectBody x y w h colour s).Ends (Drew s) (DrawingBrokeOff s) := by
  unfold fillRectBody
  split_ifs
  · exact ⟨[], s, _, .inl rfl, .refl s, rfl⟩
  · exact drawingBrokeOff_raise _ s
  · simp only
    split_ifs
    · exact drawingBrokeOff_raise _ s
    · exact sendFill_ends _ _ _ _ _ _ s

theorem finishInit_ends (s : State) :
    (finishInit s).Ends (fun t => ∃ v, Drew s v ∧ t = { v with phase := .idle }) (DrawingBrokeOff s) :=
  (fillRectBody_ends _ _ _ _ _ s).andThen fun v hv => ⟨v, hv, rfl⟩

/-! ## Host operations -/

/-- What a host operation but INIT can leave of s. -/
inductive HostOutcome (s : State) : State → Prop
  /-- It returned, perhaps with a response: it has sent the events of at most one drawing, and written surface registers and the
  status. -/
  | returned {es hist : List Event} {u : State} (hes : IsDrawing s.params es) (hu : Sent es s u) (x y : Word) (fg bg : Colour)
      (wrap : Bool) (st : Status) {ds : Option Status} (hds : ds = none ∨ ds = s.drawStatus) {rs : List Word}
      (hhist : hist = u.hist ++ rs.map .ret) :
      HostOutcome s { u with
        cursorX := x, cursorY := y, textColour := fg, backgroundColour := bg, wrap := wrap, status := st, drawStatus := ds, hist := hist }
  /-- It raised behind its drawing, with the cursor perhaps moved and the drawing's status staged. -/
  | raised {es : List Event} {u : State} (hes : IsDrawing s.params es) (hu : Sent es s u) (c : Cause) (x y : Word)
      (ds : Option Status) : HostOutcome s (raise c { u with cursorX := x, cursorY := y, drawStatus := ds }).state
  /-- It broke off inside its drawing. -/
  | brokeOff {t : State} (h : DrawingBrokeOff s t) : HostOutcome s t

theorem hostOutcome_of_drew {s t : State} (h : Drew s t) : HostOutcome s t := by
  obtain ⟨es, u, st, hes, hu, rfl⟩ := h
  exact .returned hes hu u.cursorX u.cursorY u.textColour u.backgroundColour u.wrap st (.inr (by rw [hu.frame])) (rs := []) (by simp)

theorem hostOutcome_raise (c : Cause) (s : State) : HostOutcome s (raise c s).state := .brokeOff (drawingBrokeOff_raise c s)

/-- An operation without bus activity that only writes surface registers. -/
theorem hostOutcome_written (s : State) (x y : Word) (fg bg : Colour) (wrap : Bool) (st : Status) :
    HostOutcome s { s with cursorX := x, cursorY := y, textColour := fg, backgroundColour := bg, wrap := wrap, status := st } :=
  .returned (.inl rfl) (.refl s) x y fg bg wrap st (.inr rfl) (rs := []) (by simp)

/-- A getter. -/
theorem hostOutcome_responded (s : State) (v : Word) : HostOutcome s (setStatus .ok (respond v s)) :=
  .returned (.inl rfl) (.refl s) s.cursorX s.cursorY s.textColour s.backgroundColour s.wrap .ok (.inr rfl) (rs := [v]) rfl

/-! ### WRITE -/

/-- Inside a WRITE: a drawing has been sent, the cursor may have moved and a status may be staged. -/
def Writing (s t : State) : Prop :=
  ∃ es u, IsDrawing s.params es ∧ Sent es s u ∧ ∃ x y ds, t = { u with cursorX := x, cursorY := y, drawStatus := ds }

/-- The state from which WRITE gives its response. -/
def Wrote (s t : State) : Prop :=
  ∃ es u, IsDrawing s.params es ∧ Sent es s u ∧ ∃ x y st ds, (ds = none ∨ ds = s.drawStatus)
    ∧ t = { u with cursorX := x, cursorY := y, status := st, drawStatus := ds }

/-- A WRITE broke off: inside its drawing, or by a raise behind it. -/
def WriteBrokeOff (s t : State) : Prop := DrawingBrokeOff s t ∨ ∃ c w, Writing s w ∧ t = (raise c w).state

theorem Writing.setCursorX {s t : State} (w : Word) (h : Writing s t) : Writing s (setCursorX w t) := by
  obtain ⟨es, u, hes, hu, x, y, ds, rfl⟩ := h
  exact ⟨es, u, hes, hu, w, y, ds, rfl⟩

theorem Writing.setCursorY {s t : State} (w : Word) (h : Writing s t) : Writing s (setCursorY w t) := by
  obtain ⟨es, u, hes, hu, x, y, ds, rfl⟩ := h
  exact ⟨es, u, hes, hu, x, w, ds, rfl⟩

theorem Writing.commit {s t : State} (h : Writing s t) : Wrote s (commitStatus t) := by
  obtain ⟨es, u, hes, hu, x, y, ds, rfl⟩ := h
  exact ⟨es, u, hes, hu, x, y, _, none, .inl rfl, rfl⟩

theorem Writing.putCoord_ends {s t : State} {v : Int} {write : Word → State → State} (h : Writing s t)
    (hwrite : Writing s (write (u16 v) t)) : (putCoord v write t).Ends (Writing s) (WriteBrokeOff s) := by
  unfold putCoord
  split
  · exact hwrite
  · exact .inr ⟨_, t, h, rfl⟩

theorem Writing.wrapLine_ends {s t : State} (h : Writing s t) : (wrapLine t).Ends (Writing s) (WriteBrokeOff s) := by
  unfold wrapLine
  split
  · have hx := h.setCursorX 0
    refine (hx.putCoord_ends (hx.setCursorY _)).andThen fun u hu => ?_
    split
    · exact hu.setCursorY 1
    · exact hu
  · exact h

theorem printable_ends (code : Byte) (s : State) : (printable code s).Ends (Wrote s) (WriteBrokeOff s) := by
  obtain ⟨es, hes, hsends⟩ := drawCell_isDrawing (coord s.cursorX) (coord s.cursorY) code s.textColour s.backgroundColour s
  refine (hsends.mono (fun _ h => h) fun t h => .inl ⟨es, hes, h⟩).andThen fun u hu => ?_
  have hstaged : Writing s (stageStatus (cellStatus s.params (coord s.cursorX) (coord s.cursorY)) u) :=
    ⟨es, u, hes, hu, u.cursorX, u.cursorY, _, rfl⟩
  refine (hstaged.putCoord_ends (hstaged.setCursorX _)).andThen fun v hv => ?_
  exact hv.wrapLine_ends.andThen fun w hw => hw.commit

theorem lineFeed_ends (s : State) : (lineFeed s).Ends (Wrote s) (WriteBrokeOff s) := by
  have hstart : Writing s (setCursorX 0 s) := ⟨[], s, .inl rfl, .refl s, 0, s.cursorY, s.drawStatus, rfl⟩
  unfold lineFeed putCoord
  split
  · exact ⟨[], s, .inl rfl, .refl s, 0, _, .ok, s.drawStatus, .inr rfl, rfl⟩
  · exact .inr ⟨_, _, hstart, rfl⟩

theorem writeBody_ends (code : Byte) (s : State) :
    (writeBody code s).Ends (fun t => ∃ w, Wrote s w ∧ t = respond 1 w) (WriteBrokeOff s) := by
  have hends : (if code.toNat = 10 then lineFeed s else if code.toNat = 13 then .done (setStatus .ok s) else printable code s).Ends
      (Wrote s) (WriteBrokeOff s) := by
    split_ifs
    · exact lineFeed_ends s
    · exact ⟨[], s, .inl rfl, .refl s, s.cursorX, s.cursorY, .ok, s.drawStatus, .inr rfl, rfl⟩
    · exact printable_ends code s
  exact hends.andThen fun w hw => ⟨w, hw, rfl⟩

theorem hostOutcome_of_wrote {s w : State} (h : Wrote s w) : HostOutcome s (respond 1 w) := by
  obtain ⟨es, u, hes, hu, x, y, st, ds, hds, rfl⟩ := h
  exact .returned hes hu x y u.textColour u.backgroundColour u.wrap st hds (rs := [1]) rfl

theorem hostOutcome_of_writeBrokeOff {s t : State} (h : WriteBrokeOff s t) : HostOutcome s t := by
  rcases h with h | ⟨c, _, ⟨es, u, hes, hu, x, y, ds, rfl⟩, rfl⟩
  · exact .brokeOff h
  · exact .raised hes hu c x y ds

/-! ### All of them -/

/-- Every host operation but INIT. -/
theorem body_hostOutcome {i : Instr} (hstream : i.stream = .host) (hinit : i ≠ .init) (s : State) :
    HostOutcome s (body i s).state := by
  cases i with
  | init => exact absurd rfl hinit
  | record | recordDelay | tableCount => cases hstream
  | write code =>
    exact ((writeBody_ends code s).mono (fun _ ⟨_, hw, ht⟩ => ht ▸ hostOutcome_of_wrote hw) fun _ => hostOutcome_of_writeBrokeOff).state
  | fillRect x y w h colour =>
    exact ((fillRectBody_ends _ _ _ _ _ s).mono (fun _ => hostOutcome_of_drew) fun _ => HostOutcome.brokeOff).state
  | drawChar x y code fg bg =>
    exact ((drawCharBody_ends _ _ _ _ _ s).mono (fun _ => hostOutcome_of_drew) fun _ => HostOutcome.brokeOff).state
  | setCursor col row =>
    simp only [body, setCursorBody]
    split
    · exact hostOutcome_written s _ _ s.textColour s.backgroundColour s.wrap .ok
    · exact hostOutcome_raise _ s
  | setTextColour v => exact hostOutcome_written s s.cursorX s.cursorY v s.backgroundColour s.wrap .ok
  | setBgColour v => exact hostOutcome_written s s.cursorX s.cursorY s.textColour v s.wrap .ok
  | setTextWrap b => exact hostOutcome_written s s.cursorX s.cursorY s.textColour s.backgroundColour (wrapOperand b) .ok
  | getTextColour | getBgColour | getCursorX | getCursorY => exact hostOutcome_responded s _

/-! ## The record interpreter -/

section
variable {D D' H : State → Prop} (hread : ∀ t, D t → t.tp < t.params.initTable.length → D (advanceTp 1 t))
  (hmissing : ∀ t, D t → t.params.initTable.length ≤ t.tp → H (raise (.decodeError t.tp) t).state)
include hread hmissing

/-- A read of the table continues one byte further or raises at the table's end. -/
theorem readTable_ends {k : Byte → State → Progress} {s : State} (hs : D s) (hk : ∀ b t, D t → (k b t).Ends D' H) :
    (readTable k s).Ends D' H := by
  rcases readTable_cases k s with ⟨hend, heq⟩ | ⟨b, hlt, heq⟩
  · rw [heq]
    exact hmissing s hs hend
  · rw [heq]
    exact hk b _ (hread s hs hlt)

variable (hdata : ∀ b t, D t → (sendData b t).Ends D H)
include hdata

theorem interpretArguments_ends (n : Nat) {s : State} (hs : D s) : (interpretArguments n s).Ends D H := by
  induction n generalizing s with
  | zero => exact hs
  | succ n ih => exact readTable_ends hread hmissing hs fun a t ht => (hdata a t ht).andThen fun u hu => ih hu

/-- What every part of the interpreter keeps, the interpreter keeps up to the count-down. -/
theorem interpretRecord_ends (hcommand : ∀ b t, D t → (sendCommand b t).Ends D H) (hdelay : ∀ ms t, D t → D (delayFor ms t))
    (hend : ∀ t, D t → D' (endRecord t)) {s : State} (hs : D s) : (interpretRecord s).Ends D' H := by
  refine readTable_ends hread hmissing hs fun cmd t ht => readTable_ends hread hmissing ht fun b u hu => ?_
  refine (hcommand cmd u hu).andThen fun v hv => (interpretArguments_ends hread hmissing hdata _ hv).andThen fun w hw => ?_
  split
  · exact readTable_ends hread hmissing hw fun d x hx => hend _ (hdelay _ x hx)
  · exact hend w hw

end

/-! ## The cases of a step -/

/-- What a step that answers a next state has done. -/
inductive Stepped (s : State) : State → Prop
  | dropped (hstuck : s.stuck = none) (hfault : s.fault ≠ none) : Stepped s (takeRequest s)
  | waited (hready : Ready s) (hphase : s.phase = .idle) : Stepped s s
  | reserved (hready : Ready s) (hphase : s.phase = .idle) : Stepped s (setStatus .illegalOp (takeRequest s))
  | served (hready : Ready s) (hphase : s.phase = .idle) {i : Instr} (hstream : i.stream = .host) :
      Stepped s (body i (takeRequest s)).state
  | counted (hready : Ready s) (hphase : s.phase = .header) {n : Byte} {tail : List Byte} (hunread : unread s = n :: tail) :
      Stepped s (body (.tableCount n) s).state
  | countMissing (hready : Ready s) (hphase : s.phase = .header) : Stepped s (raise (.decodeError s.tp) s).state
  | filled (hready : Ready s) (hphase : s.phase = .records) : Stepped s (finishInit s).state
  | replayed (hready : Ready s) (hphase : s.phase = .records) : Stepped s (interpretRecord s).state

theorem stepped_of_step {s t : State} (h : step s = .next t) : Stepped s t := by
  rcases step_cases h with ⟨hstuck, hfault, rfl⟩ | ⟨hr, hp, -, rfl⟩ | ⟨hr, hp, frame, op, -, -, rfl⟩
    | ⟨hr, hp, frame, i, -, hframe, rfl⟩ | ⟨hr, hp, n, tail, hunread, rfl⟩ | ⟨hr, hp, -, rfl⟩ | ⟨hr, hp, -, rfl⟩
    | ⟨hr, hp, -, i, tail, hi, rfl⟩ | ⟨hr, hp, -, r, -, rfl⟩
  · exact .dropped hstuck hfault
  · exact .waited hr hp
  · exact .reserved hr hp
  · exact .served hr hp (encode_of_decodeFrame hframe).2.1
  · exact .counted hr hp hunread
  · exact .countMissing hr hp
  · exact .filled hr hp
  · rw [← interpretRecord_of_decoded hi]
    exact .replayed hr hp
  · exact .replayed hr hp

end Sys2Proof.Machine
end

section
/-! PROOFS. The chip-select discipline, obligation O49 (40_bus_transport.md R85): every operation's events are balanced, so a history
outside a transaction stays one, and an initial piece of them still keeps the discipline. -/

namespace Sys2Proof.Machine

/-! ## Stretches of events -/

theorem disciplined_append (v : LineView) (es fs : List Event) :
    disciplined v (es ++ fs) = (disciplined v es && disciplined (v.afterAll es) fs) := by
  induction es generalizing v with
  | nil => rfl
  | cons e es ih =>
    simp only [List.cons_append, disciplined, ih, Bool.and_assoc]
    rfl

theorem disciplined_of_initial {v : LineView} {es fs : List Event} (hle : es <+: fs) (h : disciplined v fs = true) :
    disciplined v es = true := by
  obtain ⟨rest, rfl⟩ := hle
  rw [disciplined_append, Bool.and_eq_true] at h
  exact h.1

/-- Events that keep the discipline from outside a transaction and end outside one. -/
def Balanced (es : List Event) : Prop :=
  ∀ v : LineView, v.cs ≠ some false → disciplined v es = true ∧ (v.afterAll es).cs ≠ some false

theorem balanced_nil : Balanced [] := fun _ h => ⟨rfl, h⟩

theorem Balanced.append {es fs : List Event} (h : Balanced es) (h' : Balanced fs) : Balanced (es ++ fs) := by
  intro v hv
  obtain ⟨hes, hmid⟩ := h v hv
  obtain ⟨hfs, hend⟩ := h' _ hmid
  rw [disciplined_append, hes, hfs, LineView.afterAll_append]
  exact ⟨rfl, hend⟩

/-- Samples are bytes: inside a transaction they may come, and they leave it open. -/
theorem sampleEvents_inside (vs : List Colour) (v : LineView) (hv : v.cs = some false) :
    disciplined v (sampleEvents vs) = true ∧ (v.afterAll (sampleEvents vs)).cs = some false := by
  induction vs generalizing v with
  | nil => exact ⟨rfl, hv⟩
  | cons c vs ih =>
    obtain ⟨hdisc, hopen⟩ := ih ⟨v.cs, v.dc, false⟩ hv
    exact ⟨by simpa [sampleEvents, disciplined, LineView.allows, LineView.after, hv] using hdisc, hopen⟩

/-- DC, CS low, samples, CS high. -/
theorem balanced_burst (dc : Bool) (vs : List Colour) :
    Balanced ([.line .dc dc, .line .cs false] ++ sampleEvents vs ++ [.line .cs true]) := by
  intro v hv
  obtain ⟨hdisc, hopen⟩ := sampleEvents_inside vs ⟨some false, some dc, false⟩ rfl
  have hentry : v.afterAll [.line .dc dc, .line .cs false] = ⟨some false, some dc, false⟩ := rfl
  rw [disciplined_append, disciplined_append, LineView.afterAll_append, LineView.afterAll_append, hentry, hdisc]
  refine ⟨by simp [disciplined, LineView.allows, LineView.after, hv], ?_⟩
  exact fun h => Bool.noConfusion (Option.some.inj h)

theorem balanced_transaction (dc : Bool) (b : Byte) : Balanced [.line .dc dc, .line .cs false, .byte b, .line .cs true] := by
  intro v hv
  refine ⟨by simp [disciplined, LineView.allows, LineView.after, hv], ?_⟩
  exact fun h => Bool.noConfusion (Option.some.inj h)

theorem balanced_wordEvents (c : Int) : Balanced (wordEvents c) :=
  (balanced_transaction true _).append (balanced_transaction true _)

theorem balanced_drawEvents (p : Params) (x0 y0 x1 y1 : Int) (vs : List Colour) : Balanced (drawEvents p x0 y0 x1 y1 vs) := by
  have hcommand := balanced_transaction false
  have hargs : Balanced (commandEvents p.cmdColset ++ wordEvents y0 ++ wordEvents y1 ++ commandEvents p.cmdRowset ++ wordEvents x0
      ++ wordEvents x1 ++ commandEvents p.cmdRamwr) :=
    ((((((hcommand _).append (balanced_wordEvents _)).append (balanced_wordEvents _)).append (hcommand _)).append
      (balanced_wordEvents _)).append (balanced_wordEvents _)).append (hcommand _)
  have hwhole := hargs.append (balanced_burst true vs)
  simpa only [drawEvents, windowEvents, List.append_assoc] using hwhole

theorem IsDrawing.balanced {p : Params} {es : List Event} (h : IsDrawing p es) : Balanced es := by
  rcases h with rfl | ⟨x0, y0, x1, y1, vs, rfl⟩
  · exact balanced_nil
  · exact balanced_drawEvents p x0 y0 x1 y1 vs

/-- Events that neither drive CS or DC nor are bytes. -/
def Event.isQuiet (e : Event) : Bool :=
  match e with
  | .line .cs _ | .line .dc _ | .byte _ => false
  | .line .rst _ | .dir _ | .delay _ | .ret _ => true

theorem LineView.after_of_quiet (v : LineView) {e : Event} (h : e.isQuiet = true) :
    (v.cs ≠ some false → v.allows e = true) ∧ (v.after e).cs = v.cs ∧ (v.after e).dc = v.dc := by
  match e, h with
  | .line .rst _, _ | .dir _, _ | .delay _, _ | .ret _, _ => exact ⟨fun hv => decide_eq_true hv, rfl, rfl⟩

/-- Quiet events may come outside a transaction and leave the levels as they are. -/
theorem LineView.afterAll_of_quiet (v : LineView) {es : List Event} (h : es.all Event.isQuiet = true) :
    (v.cs ≠ some false → disciplined v es = true) ∧ (v.afterAll es).cs = v.cs ∧ (v.afterAll es).dc = v.dc := by
  induction es generalizing v with
  | nil => exact ⟨fun _ => rfl, rfl, rfl⟩
  | cons e es ih =>
    rw [List.all_cons, Bool.and_eq_true] at h
    obtain ⟨hallowed, hcs, hdc⟩ := v.after_of_quiet h.1
    obtain ⟨hdisc, hcs', hdc'⟩ := ih (v.after e) h.2
    refine ⟨fun hv => ?_, hcs'.trans hcs, hdc'.trans hdc⟩
    rw [disciplined, hallowed hv, hdisc (by rwa [hcs])]
    rfl

/-! ## States outside a transaction -/

/-- The history keeps the discipline, the level registers are the last levels driven, and no transaction is open. -/
def Closed (s : State) : Prop := disciplined .start s.hist = true ∧ LevelsMatch s ∧ (lineView s).cs ≠ some false

/-- As `Closed`, but for an engine that can no longer act and may have left a transaction open. -/
def ClosedOrStopped (s : State) : Prop :=
  disciplined .start s.hist = true ∧ LevelsMatch s ∧ (Ready s → (lineView s).cs ≠ some false)

theorem busInv_iff (s : State) : BusInv s ↔ ClosedOrStopped s :=
  ⟨fun ⟨hdisc, hcs, hdc, hopen⟩ => ⟨hdisc, ⟨hcs, hdc⟩, fun hready => hopen hready.1 hready.2⟩,
    fun ⟨hdisc, hlevels, hopen⟩ => ⟨hdisc, hlevels.1, hlevels.2, fun hstuck hfault => hopen ⟨hstuck, hfault⟩⟩⟩

theorem Closed.closedOrStopped {s : State} (h : Closed s) : ClosedOrStopped s := ⟨h.1, h.2.1, fun _ => h.2.2⟩

theorem closed_of_hist {s t : State} {es : List Event} (h : Closed s) (hhist : t.hist = s.hist ++ es) (hes : Balanced es)
    (hlevels : LevelsMatch t) : Closed t := by
  obtain ⟨hdisc, -, hopen⟩ := h
  obtain ⟨hdisc', hopen'⟩ := hes _ hopen
  have hview := lineView_of_hist hhist
  refine ⟨?_, hlevels, by rwa [hview]⟩
  rw [hhist, disciplined_append, hdisc]
  exact hdisc'

theorem closed_of_sent {s t : State} {es : List Event} (h : Closed s) (hes : Balanced es) (ht : Sent es s t) : Closed t :=
  closed_of_hist h ht.hist hes (ht.levels h.2.1)

theorem closedOrStopped_of_brokeOff {s t : State} {es : List Event} (h : Closed s) (hes : Balanced es) (ht : BrokeOff es s t) :
    ClosedOrStopped t := by
  obtain ⟨sent, hsent, hhist⟩ := ht.events
  refine ⟨?_, ht.levels h.2.1, fun hready => absurd hready ht.not_ready⟩
  have hdisc' := disciplined_of_initial hsent (hes _ h.2.2).1
  rw [hhist, disciplined_append, h.1]
  exact hdisc'

theorem closed_of_sends {s : State} {es : List Event} {a : Progress} (h : Closed s) (hes : Balanced es) (ha : a.Sends es s) :
    a.Ends Closed ClosedOrStopped :=
  ha.mono (fun _ ht => closed_of_sent h hes ht) fun _ ht => closedOrStopped_of_brokeOff h hes ht

theorem closed_of_quiet {s t : State} {es : List Event} (h : Closed s) (hes : es.all Event.isQuiet = true)
    (hhist : t.hist = s.hist ++ es) (hcs : t.cs = s.cs) (hdc : t.dc = s.dc) : Closed t := by
  obtain ⟨hdisc, hcs', hdc'⟩ := (lineView s).afterAll_of_quiet hes
  refine closed_of_hist h hhist (fun v hv => ?_) ?_
  · obtain ⟨hv', hcsv, -⟩ := v.afterAll_of_quiet hes
    exact ⟨hv' hv, by rwa [hcsv]⟩
  · rw [LevelsMatch, lineView_of_hist hhist, hcs', hdc', hcs, hdc]
    exact h.2.1

/-! ## Operations and steps -/

theorem all_ret_isQuiet (rs : List Word) : (rs.map Event.ret).all Event.isQuiet = true := by
  rw [List.all_map]
  exact List.all_eq_true.2 fun _ _ => rfl

theorem ClosedOrStopped.raise {s : State} (h : Closed s) (c : Cause) : ClosedOrStopped (raise c s).state :=
  closedOrStopped_of_brokeOff h balanced_nil (.raise [] c s)

theorem HostOutcome.closedOrStopped {s t : State} (h : Closed s) (ht : HostOutcome s t) : ClosedOrStopped t := by
  cases ht with
  | returned hes hu x y fg bg wrap st hds hhist =>
    exact Closed.closedOrStopped (closed_of_quiet (closed_of_sent h hes.balanced hu) (all_ret_isQuiet _) hhist rfl rfl)
  | raised hes hu c x y ds =>
    have hclosed := closed_of_sent h hes.balanced hu
    exact .raise (by exact hclosed) c
  | brokeOff ht =>
    obtain ⟨es, hes, hbroke⟩ := ht
    exact closedOrStopped_of_brokeOff h hes.balanced hbroke

theorem initBody_closed {s : State} (h : Closed s) : ClosedOrStopped (initBody s).state := by
  rw [initBody_eq]
  exact Closed.closedOrStopped (closed_of_quiet h (es := bringUpEvents) rfl rfl rfl rfl)

theorem finishInit_closed {s : State} (h : Closed s) : ClosedOrStopped (finishInit s).state := by
  refine ((finishInit_ends s).mono ?_ fun t ht => HostOutcome.closedOrStopped h (.brokeOff ht)).state
  rintro _ ⟨v, ⟨es, u, st, hes, hu, rfl⟩, rfl⟩
  exact (closed_of_sent h hes.balanced hu).closedOrStopped

theorem interpretRecord_closed {s : State} (h : Closed s) : ClosedOrStopped (interpretRecord s).state := by
  have hends : (interpretRecord s).Ends Closed ClosedOrStopped :=
    interpretRecord_ends (D := Closed) (fun _ ht _ => ht) (fun _ ht _ => .raise ht _)
      (fun b t ht => closed_of_sends ht (balanced_transaction true b) (sendData_sends b t))
      (fun b t ht => closed_of_sends ht (balanced_transaction false b) (sendCommand_sends b t))
      (fun ms t ht => closed_of_quiet ht (es := [.delay ms]) rfl rfl rfl rfl) (fun _ ht => ht) h
  exact (hends.mono (fun _ ht => ht.closedOrStopped) fun _ ht => ht).state

/-- Settles O49: a step of an engine that can act starts outside a transaction, and each of its cases keeps that or stops; any other
step leaves the history, the levels and the stop as they are. -/
theorem stepKeepsTheBusDiscipline : Obligations.StepKeepsTheBusDiscipline := by
  intro s t hinv hstep
  rw [busInv_iff] at hinv ⊢
  have hclosed : Ready s → Closed s := fun hready => ⟨hinv.1, hinv.2.1, hinv.2.2 hready⟩
  cases stepped_of_step hstep with
  | dropped _ _ => exact hinv
  | waited _ _ => exact hinv
  | reserved _ _ => exact hinv
  | @served hready _ i hstream =>
    have hc : Closed (takeRequest s) := hclosed hready
    by_cases hinit : i = .init
    · rw [hinit]
      exact initBody_closed hc
    · exact (body_hostOutcome hstream hinit _).closedOrStopped hc
  | counted hready _ _ => exact (hclosed hready).closedOrStopped
  | countMissing hready _ => exact .raise (hclosed hready) _
  | filled hready _ => exact finishInit_closed (hclosed hready)
  | replayed hready _ => exact interpretRecord_closed (hclosed hready)

end Sys2Proof.Machine
end

section
/-! PROOFS. The bring-up invariant and what every step leaves alone, the frames of the instructions, and obligations O50 to O55
(10_state.md sections 2 to 7, 60_exceptions.md R131, R146). -/

namespace Sys2Proof.Machine

/-! ## The bring-up invariant -/

/-- `BringUpInv` of an engine that can act, but for a status that may be staged: what holds inside an operation. -/
structure Working (s : State) : Prop where
  outputs : s.csOut = s.initialised ∧ s.dcOut = s.initialised ∧ s.rstOut = s.initialised
  before : s.initialised = false → s.hist.all Event.isRet = true ∧ s.phase = .idle
  header : s.phase = .header → s.tp = 0
  tp : s.tp ≤ s.params.initTable.length
  rc : s.rc ≤ 255
  ready : Ready s

theorem BringUpInv.working {s : State} (h : BringUpInv s) (hready : Ready s) : Working s := by
  obtain ⟨houtputs, hbefore, hheader, htp, hrc, -, -⟩ := h
  exact ⟨houtputs, fun hi => ⟨(hbefore hi).1, (hbefore hi).2.1⟩, hheader, htp, hrc, hready⟩

theorem BringUpInv.drawStatus {s : State} (h : BringUpInv s) (hready : Ready s) : s.drawStatus = none := by
  obtain ⟨-, -, -, -, -, -, hstaged⟩ := h
  by_contra hne
  exact hstaged hne hready.2

theorem Working.bringUpInv {s : State} (h : Working s) (hds : s.drawStatus = none) : BringUpInv s :=
  ⟨h.outputs, fun hi => ⟨(h.before hi).1, (h.before hi).2, h.ready.1⟩, h.header, h.tp, h.rc, fun hf => absurd h.ready.2 hf,
    fun hne => absurd hds hne⟩

/-- A raise ends the operation, whatever is staged. -/
theorem Working.raise {s : State} (h : Working s) (c : Cause) : BringUpInv (raise c s).state :=
  ⟨h.outputs, fun hi => ⟨(h.before hi).1, rfl, h.ready.1⟩, fun hp => Phase.noConfusion hp, h.tp, h.rc, fun _ => ⟨rfl, h.ready.1⟩,
    fun _ => Option.some_ne_none c⟩

theorem Working.sent {s t : State} {es : List Event} (h : Working s) (ht : Sent es s t) : Working t := by
  have hquiet : t.initialised = false → t.hist = s.hist := by
    intro hi
    rw [ht.hist, ht.powered.resolve_right (by rw [← ht.initialised, hi]; exact Bool.false_ne_true), List.append_nil]
  obtain ⟨houtputs, hbefore, hheader, htp, hrc, hready⟩ := h
  rw [ht.frame] at hquiet ⊢
  exact ⟨houtputs, fun hi => ⟨by rw [hquiet hi]; exact (hbefore hi).1, (hbefore hi).2⟩, hheader, htp, hrc, hready⟩

theorem Working.brokeOff {s t : State} {es : List Event} (h : Working s) (hds : s.drawStatus = none) (ht : BrokeOff es s t) :
    BringUpInv t := by
  obtain ⟨houtputs, hbefore, hheader, htp, hrc, hready⟩ := h
  obtain ⟨⟨-, hframe⟩, -, -, hpowered, hending⟩ := ht
  rw [hframe]
  rcases hending with ⟨hfault, hphase, hstuck⟩ | ⟨hi, hstuck, hfault, hphase⟩
  · refine ⟨houtputs, fun hi => ⟨?_, hphase, hstuck.trans hready.1⟩, fun hp => ?_, htp, hrc, fun _ => ⟨hphase, hstuck.trans hready.1⟩,
      fun hne => absurd hds hne⟩
    · rw [hpowered.resolve_right (by rw [show s.initialised = false from hi]; exact Bool.false_ne_true)]
      exact (hbefore hi).1
    · exact Phase.noConfusion (hphase.symm.trans hp)
  · refine ⟨houtputs, fun hno => ?_, fun hp => hheader (hphase.symm.trans hp), htp, hrc, fun hf => absurd (hfault.trans hready.2) hf,
      fun hne => absurd hds hne⟩
    exact Bool.noConfusion (hi.symm.trans hno)

/-- The responses are all a history may hold before INIT. -/
theorem all_isRet_append {h : List Event} (rs : List Word) (hall : h.all Event.isRet = true) :
    (h ++ rs.map Event.ret).all Event.isRet = true := by
  rw [List.all_append, hall, List.all_map]
  exact List.all_eq_true.2 fun _ _ => rfl

theorem HostOutcome.bringUpInv {s t : State} (h : Working s) (hds : s.drawStatus = none) (ht : HostOutcome s t) : BringUpInv t := by
  cases ht with
  | returned hes hu x y fg bg wrap st hstaged hhist =>
    obtain ⟨houtputs, hbefore, hheader, htp, hrc, hready⟩ := h.sent hu
    refine Working.bringUpInv ⟨houtputs, fun hi => ⟨?_, (hbefore hi).2⟩, hheader, htp, hrc, hready⟩ (hstaged.elim id (·.trans hds))
    rw [hhist]
    exact all_isRet_append _ (hbefore hi).1
  | raised hes hu c x y ds =>
    obtain ⟨houtputs, hbefore, hheader, htp, hrc, hready⟩ := h.sent hu
    refine Working.raise ?_ c
    exact ⟨houtputs, hbefore, hheader, htp, hrc, hready⟩
  | brokeOff ht =>
    obtain ⟨es, -, hbroke⟩ := ht
    exact h.brokeOff hds hbroke

theorem initBody_bringUpInv {s : State} (h : Working s) (hds : s.drawStatus = none) : BringUpInv (initBody s).state := by
  rw [initBody_eq]
  exact Working.bringUpInv ⟨⟨rfl, rfl, rfl⟩, fun hi => Bool.noConfusion hi, fun _ => rfl, Nat.zero_le _, h.rc, h.ready⟩ hds

theorem finishInit_bringUpInv {s : State} (h : Working s) (hds : s.drawStatus = none) : BringUpInv (finishInit s).state := by
  refine ((finishInit_ends s).mono ?_ fun t ⟨_, _, hbroke⟩ => h.brokeOff hds hbroke).state
  rintro _ ⟨v, ⟨es, u, st, -, hu, rfl⟩, rfl⟩
  obtain ⟨houtputs, hbefore, -, htp, hrc, hready⟩ := h.sent hu
  exact Working.bringUpInv ⟨houtputs, fun hi => ⟨(hbefore hi).1, rfl⟩, fun hp => Phase.noConfusion hp, htp, hrc, hready⟩
    (by rw [hu.frame]; exact hds)

/-- `Working`, inside the replay of the table's records and with no status staged. -/
def Replaying (s : State) : Prop := Working s ∧ s.phase = .records ∧ s.drawStatus = none

theorem Replaying.initialised {s : State} (h : Replaying s) : s.initialised = true := by
  by_contra hi
  obtain ⟨hworking, hphase, -⟩ := h
  exact Phase.noConfusion (hphase.symm.trans (hworking.before (Bool.eq_false_iff.2 hi)).2)

theorem Replaying.sends {s : State} {es : List Event} {a : Progress} (h : Replaying s) (ha : a.Sends es s) :
    a.Ends Replaying BringUpInv := by
  obtain ⟨hworking, hphase, hds⟩ := h
  refine ha.mono (fun t ht => ⟨hworking.sent ht, ?_, ?_⟩) fun t ht => hworking.brokeOff hds ht
  · rw [ht.frame]; exact hphase
  · rw [ht.frame]; exact hds

theorem interpretRecord_bringUpInv {s : State} (h : Replaying s) : BringUpInv (interpretRecord s).state := by
  have hends : (interpretRecord s).Ends Replaying BringUpInv := by
    refine interpretRecord_ends (fun t ht hlt => ?_) (fun t ht _ => ht.1.raise _) (fun b t ht => ht.sends (sendData_sends b t))
      (fun b t ht => ht.sends (sendCommand_sends b t)) (fun ms t ht => ?_) (fun t ht => ?_) h
    · obtain ⟨⟨houtputs, hbefore, -, -, hrc, hready⟩, hphase, hds⟩ := ht
      exact ⟨⟨houtputs, hbefore, fun hp => Phase.noConfusion (hphase.symm.trans hp), hlt, hrc, hready⟩, hphase, hds⟩
    · have hi := ht.initialised
      obtain ⟨⟨houtputs, -, hheader, htp, hrc, hready⟩, hphase, hds⟩ := ht
      exact ⟨⟨houtputs, fun hno => Bool.noConfusion (hi.symm.trans hno), hheader, htp, hrc, hready⟩, hphase, hds⟩
    · obtain ⟨⟨houtputs, hbefore, hheader, htp, hrc, hready⟩, hphase, hds⟩ := ht
      exact ⟨⟨houtputs, hbefore, hheader, htp, (Nat.sub_le _ _).trans hrc, hready⟩, hphase, hds⟩
  exact (hends.mono (fun _ ht => ht.1.bringUpInv ht.2.2) fun _ ht => ht).state

/-- Settles O50: case by case over the step; the drawings are outcomes of host operations, the records go through the interpreter's
rule. -/
theorem stepKeepsTheBringUpInvariant : Obligations.StepKeepsTheBringUpInvariant := by
  intro s t hinv hstep
  cases stepped_of_step hstep with
  | dropped _ _ => exact hinv
  | waited _ _ => exact hinv
  | reserved _ _ => exact hinv
  | @served hready _ i hstream =>
    have hworking : Working (takeRequest s) := BringUpInv.working hinv hready
    have hds := BringUpInv.drawStatus hinv hready
    by_cases hinit : i = .init
    · rw [hinit]
      exact initBody_bringUpInv hworking hds
    · exact (body_hostOutcome hstream hinit _).bringUpInv hworking hds
  | @counted hready hphase n tail hunread =>
    obtain ⟨houtputs, hbefore, hheader, -, -, -⟩ := BringUpInv.working hinv hready
    have hlt : s.tp < s.params.initTable.length := by
      by_contra hge
      rw [unread, List.drop_eq_nil_of_le (Nat.not_lt.1 hge)] at hunread
      cases hunread
    have hds := BringUpInv.drawStatus hinv hready
    refine Working.bringUpInv ⟨houtputs, fun hi => ?_, fun hp => Phase.noConfusion hp, hlt, ?_, hready⟩ hds
    · exact Phase.noConfusion (hphase.symm.trans (hbefore hi).2)
    · have hn := n.isLt
      exact Nat.le_of_lt_succ hn
  | countMissing hready _ => exact (BringUpInv.working hinv hready).raise _
  | filled hready _ => exact finishInit_bringUpInv (BringUpInv.working hinv hready) (BringUpInv.drawStatus hinv hready)
  | replayed hready hphase =>
    exact interpretRecord_bringUpInv ⟨BringUpInv.working hinv hready, hphase, BringUpInv.drawStatus hinv hready⟩

theorem busInv_construct (p : Params) (cs dc rst : Bool) (o : Option Nat) : BusInv (State.construct p cs dc rst o) :=
  ⟨rfl, nofun, nofun, fun _ _ => nofun⟩

theorem bringUpInv_construct (p : Params) (cs dc rst : Bool) (o : Option Nat) : BringUpInv (State.construct p cs dc rst o) :=
  ⟨⟨rfl, rfl, rfl⟩, fun _ => ⟨rfl, rfl, rfl⟩, fun h => Phase.noConfusion h, Nat.zero_le _, Nat.zero_le _, fun h => absurd rfl h,
    fun h => absurd rfl h⟩

/-- Settles O51: nothing has happened yet. -/
theorem constructionMeetsBothInvariants : Obligations.ConstructionMeetsBothInvariants :=
  ⟨fun p cs dc rst o => ⟨busInv_construct p cs dc rst o, bringUpInv_construct p cs dc rst o⟩, busInv_construct _ _ _ _ _,
    bringUpInv_construct _ _ _ _ _⟩

/-! ## Frames -/

/-- A meaning that answers a next state leaves at most what its pseudocode leaves, or nothing at all. -/
theorem exec_next_relation {R : State → State → Prop} {i : Instr} {s t : State} (h : exec i s = .next t) (hrefl : R s s)
    (hbody : R s (body i s).state) : R s t := by
  rw [exec_eq_guarded] at h
  rcases guarded_next h with ⟨-, -, rfl⟩ | ⟨-, rfl⟩
  · exact hrefl
  · exact hbody

/-- What a drawing may touch, its status among it. -/
def DrawingChanges (s t : State) : Prop :=
  s.hist <+: t.hist ∧ t = { s with
    cs := t.cs, dc := t.dc, hist := t.hist, busLeft := t.busLeft, status := t.status, fault := t.fault, phase := t.phase,
    stuck := t.stuck }

theorem DrawingChanges.of_busFrame {s t : State} (h : BusFrame s t) : DrawingChanges s t := by
  obtain ⟨hhist, hframe⟩ := h
  refine ⟨hhist, ?_⟩
  rw [hframe]

theorem DrawingChanges.setStatus {s t : State} (st : Status) (h : DrawingChanges s t) : DrawingChanges s (setStatus st t) := by
  obtain ⟨hhist, hframe⟩ := h
  refine ⟨hhist, ?_⟩
  rw [hframe]
  rfl

theorem drawingChanges_of_ends {s : State} {a : Progress} (h : a.Ends (Drew s) (DrawingBrokeOff s)) : DrawingChanges s a.state := by
  refine (h.mono ?_ ?_).state
  · rintro _ ⟨es, u, st, -, hu, rfl⟩
    exact (DrawingChanges.of_busFrame hu.busFrame).setStatus st
  · rintro t ⟨es, -, hbroke⟩
    exact .of_busFrame hbroke.frame

/-- Settles O53: both drawings are events on the bus, then the status. -/
theorem drawingFrame : Obligations.DrawingFrame := by
  rintro i s t hi h
  refine exec_next_relation (R := DrawingChanges) h (.of_busFrame (.refl s)) ?_
  rcases hi with ⟨x, y, code, fg, bg, rfl⟩ | ⟨x, y, w, h, colour, rfl⟩
  · exact drawingChanges_of_ends (drawCharBody_ends _ _ _ _ _ s)
  · exact drawingChanges_of_ends (fillRectBody_ends _ _ _ _ _ s)

/-- What WRITE may touch. -/
def WriteChanges (s t : State) : Prop :=
  s.hist <+: t.hist ∧ t = { s with
    cursorX := t.cursorX, cursorY := t.cursorY, cs := t.cs, dc := t.dc, hist := t.hist, busLeft := t.busLeft,
    status := t.status, drawStatus := t.drawStatus, fault := t.fault, phase := t.phase, stuck := t.stuck }

theorem WriteChanges.of_busFrame {s t : State} (h : BusFrame s t) : WriteChanges s t := by
  obtain ⟨hhist, hframe⟩ := h
  refine ⟨hhist, ?_⟩
  rw [hframe]

theorem writeChanges_of_sent {s u t : State} {es : List Event} (hu : Sent es s u) (hhist : u.hist <+: t.hist)
    (h : t = { u with
      cursorX := t.cursorX, cursorY := t.cursorY, hist := t.hist, status := t.status, drawStatus := t.drawStatus, fault := t.fault,
      phase := t.phase }) : WriteChanges s t := by
  refine ⟨hu.busFrame.1.trans hhist, ?_⟩
  rw [hu.frame] at h
  rw [h]

theorem writeBody_changes (code : Byte) (s : State) : WriteChanges s (writeBody code s).state := by
  refine ((writeBody_ends code s).mono ?_ ?_).state
  · rintro _ ⟨_, ⟨es, u, -, hu, x, y, st, ds, -, rfl⟩, rfl⟩
    exact writeChanges_of_sent hu (List.prefix_append _ _) rfl
  · rintro _ (⟨es, -, hbroke⟩ | ⟨c, _, ⟨es, u, -, hu, x, y, ds, rfl⟩, rfl⟩)
    · exact .of_busFrame hbroke.frame
    · exact writeChanges_of_sent hu (List.prefix_refl _) rfl

/-- Settles O54: a drawing, the two cursor registers and the status. -/
theorem writeFrame : Obligations.WriteFrame := fun code s _ h =>
  exec_next_relation (R := WriteChanges) h (.of_busFrame (.refl s)) (writeBody_changes code s)

/-- What a table instruction may touch. -/
def TableChanges (s t : State) : Prop :=
  s.hist <+: t.hist ∧ t = { s with
    tp := t.tp, rc := t.rc, cs := t.cs, dc := t.dc, hist := t.hist, busLeft := t.busLeft, fault := t.fault, phase := t.phase,
    stuck := t.stuck }

theorem TableChanges.refl (s : State) : TableChanges s s := ⟨List.prefix_refl _, rfl⟩

theorem TableChanges.trans {s t u : State} (h : TableChanges s t) (h' : TableChanges t u) : TableChanges s u := by
  obtain ⟨hhist, hframe⟩ := h
  obtain ⟨hhist', hframe'⟩ := h'
  refine ⟨hhist.trans hhist', ?_⟩
  rw [hframe] at hframe'
  exact hframe'

theorem TableChanges.of_busFrame {s t : State} (h : BusFrame s t) : TableChanges s t := by
  obtain ⟨hhist, hframe⟩ := h
  refine ⟨hhist, ?_⟩
  rw [hframe]

theorem TableChanges.advanceTp (n : Nat) (s : State) : TableChanges s (advanceTp n s) := ⟨List.prefix_refl _, rfl⟩

theorem TableChanges.endRecord (s : State) : TableChanges s (endRecord s) := ⟨List.prefix_refl _, rfl⟩

theorem TableChanges.delayFor (ms : Nat) (s : State) : TableChanges s (delayFor ms s) := .of_busFrame (.emit _ s)

theorem TableChanges.sends {s t : State} {es : List Event} {a : Progress} (h : TableChanges s t) (ha : a.Sends es t) :
    a.Ends (TableChanges s) (TableChanges s) :=
  ha.mono (fun _ hu => h.trans (.of_busFrame hu.busFrame)) fun _ hu => h.trans (.of_busFrame hu.frame)

theorem sendArguments_changes (args : List Byte) {s t : State} (h : TableChanges s t) :
    (sendArguments args t).Ends (TableChanges s) (TableChanges s) := by
  induction args generalizing t with
  | nil => exact h
  | cons a args ih => exact ((h.trans (.advanceTp 1 t)).sends (sendData_sends a _)).andThen fun u hu => ih hu

theorem recordBody_changes (cmd : Byte) (args : List Byte) (s : State) :
    (recordBody cmd args s).Ends (TableChanges s) (TableChanges s) :=
  ((TableChanges.advanceTp 2 s).sends (sendCommand_sends cmd _)).andThen fun _ ht => sendArguments_changes args ht

/-- Settles O55: the two records are bus activity and moves of tp and rc, the count is a move of them. -/
theorem tableInstructionFrame : Obligations.TableInstructionFrame := by
  intro i s t hstream h
  refine exec_next_relation (R := TableChanges) h (.refl s) ?_
  cases i with
  | record cmd args =>
    refine ((recordBody_changes cmd args s).andThen (D' := TableChanges s) fun t ht => ?_).state
    exact ht.trans (.endRecord t)
  | recordDelay cmd args d =>
    refine ((recordBody_changes cmd args s).andThen (D' := TableChanges s) fun t ht => ?_).state
    exact ((ht.trans (.advanceTp 1 t)).trans (.delayFor _ _)).trans (.endRecord _)
  | tableCount n => exact ⟨List.prefix_refl _, rfl⟩
  | _ => exact absurd rfl hstream

theorem interpretRecord_changes (s : State) : TableChanges s (interpretRecord s).state :=
  (interpretRecord_ends (D := TableChanges s) (D' := TableChanges s) (H := TableChanges s) (fun t ht _ => ht.trans (.advanceTp 1 t))
    (fun t ht _ => ht.trans (.of_busFrame (.raise _ t))) (fun b t ht => ht.sends (sendData_sends b t))
    (fun b t ht => ht.sends (sendCommand_sends b t)) (fun ms t ht => ht.trans (.delayFor ms t)) (fun t ht => ht.trans (.endRecord t))
    (.refl s)).state

/-! ## What no step undoes -/

/-- The history has only grown, the parameters are the same, an initialised engine stays one, and an operation that has not ended has
not written the status. -/
def OnlyAdded (s t : State) : Prop :=
  t.params = s.params ∧ s.hist <+: t.hist ∧ t.host = s.host ∧ (s.initialised = true → t.initialised = true)
    ∧ (¬ Ready t ∨ t.phase ≠ .idle → t.status = s.status)

theorem TableChanges.onlyAdded {s t : State} (h : TableChanges s t) : OnlyAdded s t := by
  obtain ⟨hhist, hframe⟩ := h
  refine ⟨?_, hhist, ?_, ?_, fun _ => ?_⟩ <;> rw [hframe]
  exact id

theorem HostOutcome.onlyAdded {s t : State} (hready : Ready s) (hphase : s.phase = .idle) (h : HostOutcome s t) : OnlyAdded s t := by
  cases h with
  | @returned es hist u hes hu x y fg bg wrap st ds hds rs hhist =>
    have hphase' : u.phase = .idle := by rw [hu.frame]; exact hphase
    refine ⟨hu.params, ?_, by rw [hu.frame], fun hi => hu.initialised.trans hi, fun hno => ?_⟩
    · exact hhist ▸ hu.busFrame.1.trans (List.prefix_append _ _)
    · exact hno.elim (absurd (hu.ready hready)) (absurd hphase')
  | @raised es u hes hu c x y ds =>
    exact ⟨hu.params, hu.busFrame.1, by rw [hu.frame]; rfl, fun hi => hu.initialised.trans hi, fun _ => by rw [hu.frame]; rfl⟩
  | brokeOff ht =>
    obtain ⟨es, -, hbroke⟩ := ht
    exact (TableChanges.of_busFrame hbroke.frame).onlyAdded

theorem finishInit_onlyAdded {s : State} (hready : Ready s) : OnlyAdded s (finishInit s).state := by
  refine ((finishInit_ends s).mono ?_ fun t ⟨es, _, hbroke⟩ => (TableChanges.of_busFrame hbroke.frame).onlyAdded).state
  rintro _ ⟨v, ⟨es, u, st, -, hu, rfl⟩, rfl⟩
  refine ⟨hu.params, hu.busFrame.1, by rw [hu.frame]; rfl, fun hi => hu.initialised.trans hi, fun hno => ?_⟩
  exact hno.elim (absurd (hu.ready hready)) (absurd rfl)

/-- `OnlyAdded`, but for a request that may have been taken off the port. -/
def OnlyAddedOrTaken (s t : State) : Prop :=
  t.params = s.params ∧ s.hist <+: t.hist ∧ (t.host = s.host ∨ t.host = s.host.tail)
    ∧ (s.initialised = true → t.initialised = true) ∧ (¬ Ready t ∨ t.phase ≠ .idle → t.status = s.status)

theorem OnlyAdded.refl (s : State) : OnlyAdded s s := ⟨rfl, List.prefix_refl _, rfl, id, fun _ => rfl⟩

theorem OnlyAdded.inPlace {s t : State} (h : OnlyAdded s t) : OnlyAddedOrTaken s t := by
  obtain ⟨hparams, hhist, hhost, hi, hstatus⟩ := h
  exact ⟨hparams, hhist, .inl hhost, hi, hstatus⟩

theorem OnlyAdded.ofTaken {s t : State} (h : OnlyAdded (takeRequest s) t) : OnlyAddedOrTaken s t := by
  obtain ⟨hparams, hhist, hhost, hi, hstatus⟩ := h
  exact ⟨hparams, hhist, .inr hhost, hi, hstatus⟩

/-- Settles O52: case by case over the step. -/
theorem stepOnlyAppendsAndKeepsParameters : Obligations.StepOnlyAppendsAndKeepsParameters := by
  intro s t hstep
  change OnlyAddedOrTaken s t
  cases stepped_of_step hstep with
  | dropped _ _ => exact (OnlyAdded.refl _).ofTaken
  | waited _ _ => exact (OnlyAdded.refl _).inPlace
  | reserved hready hphase =>
    exact ⟨rfl, List.prefix_refl _, .inr rfl, id, fun hno => hno.elim (absurd hready) (absurd hphase)⟩
  | @served hready hphase i hstream =>
    refine OnlyAdded.ofTaken ?_
    by_cases hinit : i = .init
    · rw [hinit, body, initBody_eq]
      exact ⟨rfl, List.prefix_append _ _, rfl, fun _ => rfl, fun _ => rfl⟩
    · exact (body_hostOutcome hstream hinit _).onlyAdded hready hphase
  | counted _ _ _ => exact OnlyAdded.inPlace ⟨rfl, List.prefix_refl _, rfl, id, fun _ => rfl⟩
  | countMissing _ _ => exact OnlyAdded.inPlace ⟨rfl, List.prefix_refl _, rfl, id, fun _ => rfl⟩
  | filled hready _ => exact (finishInit_onlyAdded hready).inPlace
  | replayed _ _ => exact (interpretRecord_changes s).onlyAdded.inPlace

end Sys2Proof.Machine
end

section
/-! PROOFS. What no operation can learn, obligations O56, O57 and O58: a relation between two engines that agree in all an operation
reads, and that every one of its writes keeps, is kept by the operation. Each of the three obligations is one such relation. -/

namespace Sys2Proof.Machine

/-! ## Relations kept by every write -/

/-- The writes of the bus and of the drawings. -/
inductive BusUpdate : (State → State) → Prop
  | emit (e : Event) : BusUpdate (emit e)
  | setLevel (l : Line) (v : Bool) : BusUpdate (setLevel l v)
  | spendByte : BusUpdate fun s => { s with busLeft := busSpendOne s.busLeft }
  | setStatus (st : Status) : BusUpdate (setStatus st)
  | raise (c : Cause) : BusUpdate fun s => (raise c s).state
  | hang (b : Byte) : BusUpdate fun s => (hang b s).state

/-- The other writes of the operations and of a step. -/
inductive RegisterUpdate : (State → State) → Prop
  | setCursorX (w : Word) : RegisterUpdate (setCursorX w)
  | setCursorY (w : Word) : RegisterUpdate (setCursorY w)
  | setTextColour (v : Colour) : RegisterUpdate fun s => { s with textColour := v }
  | setBackgroundColour (v : Colour) : RegisterUpdate fun s => { s with backgroundColour := v }
  | setWrap (b : Bool) : RegisterUpdate fun s => { s with wrap := b }
  | stageStatus (st : Status) : RegisterUpdate (stageStatus st)
  | commitStatus : RegisterUpdate commitStatus
  | setOutput (l : Line) : RegisterUpdate (setOutput l)
  | initialise : RegisterUpdate fun s => { s with initialised := true }
  | beginReplay : RegisterUpdate fun s => { s with tp := 0, phase := .header }
  | advanceTp (n : Nat) : RegisterUpdate (advanceTp n)
  | loadCount (n : Nat) : RegisterUpdate fun s => { s with rc := n, phase := .records }
  | endRecord : RegisterUpdate endRecord
  | endInit : RegisterUpdate fun s => { s with phase := .idle }
  | takeRequest : RegisterUpdate takeRequest

/-- Related engines agree in what a drawing reads, and every write of a drawing keeps them related. -/
structure KeptByDrawings (R : State → State → Prop) : Prop where
  params {s t : State} : R s t → t.params = s.params
  initialised {s t : State} : R s t → t.initialised = s.initialised
  busLeft {s t : State} : R s t → t.busLeft = s.busLeft
  stuck {s t : State} : R s t → t.stuck = s.stuck
  fault {s t : State} : R s t → t.fault = s.fault
  busUpdate {f : State → State} (hf : BusUpdate f) {s t : State} : R s t → R (f s) (f t)

/-- Related engines agree in all that a step reads, and every write keeps them related. -/
structure KeptBySteps (R : State → State → Prop) : Prop extends KeptByDrawings R where
  cursorX {s t : State} : R s t → t.cursorX = s.cursorX
  cursorY {s t : State} : R s t → t.cursorY = s.cursorY
  textColour {s t : State} : R s t → t.textColour = s.textColour
  backgroundColour {s t : State} : R s t → t.backgroundColour = s.backgroundColour
  wrap {s t : State} : R s t → t.wrap = s.wrap
  tp {s t : State} : R s t → t.tp = s.tp
  rc {s t : State} : R s t → t.rc = s.rc
  phase {s t : State} : R s t → t.phase = s.phase
  host {s t : State} : R s t → t.host = s.host
  registerUpdate {f : State → State} (hf : RegisterUpdate f) {s t : State} : R s t → R (f s) (f t)

/-- Two pieces of pseudocode end alike, in related states. -/
inductive Progress.Alike (R : State → State → Prop) : Progress → Progress → Prop
  | done {s t : State} (h : R s t) : Alike R (.done s) (.done t)
  | halted {s t : State} (h : R s t) : Alike R (.halted s) (.halted t)

/-- Two outcomes are alike, in related states. -/
inductive OutcomeAlike (R : State → State → Prop) : Host.Outcome State Fault Refusal → Host.Outcome State Fault Refusal → Prop
  | next {s t : State} (h : R s t) : OutcomeAlike R (.next s) (.next t)
  | fault (r : Fault) : OutcomeAlike R (.fault r) (.fault r)
  | refused (r : Refusal) : OutcomeAlike R (.refused r) (.refused r)

theorem Progress.Alike.andThen {R : State → State → Prop} {a b : Progress} {f g : State → Progress} (h : Progress.Alike R a b)
    (hfg : ∀ s t, R s t → Progress.Alike R (f s) (g t)) : Progress.Alike R (a.andThen f) (b.andThen g) := by
  cases h with
  | done h => exact hfg _ _ h
  | halted h => exact .halted h

theorem Progress.Alike.state {R : State → State → Prop} {a b : Progress} (h : Progress.Alike R a b) : R a.state b.state := by
  cases h with
  | done h => exact h
  | halted h => exact h

theorem OutcomeAlike.eq_mapNext {R : State → State → Prop} {a b : Host.Outcome State Fault Refusal} {f : State → State}
    (h : OutcomeAlike R a b) (hf : ∀ s t, R s t → t = f s) : b = mapNext f a := by
  cases h with
  | next h => exact congrArg _ (hf _ _ h)
  | fault r => rfl
  | refused r => rfl

theorem OutcomeAlike.mapNext_eq {R : State → State → Prop} {a b : Host.Outcome State Fault Refusal} {f : State → State}
    (h : OutcomeAlike R a b) (hf : ∀ s t, R s t → f t = f s) : mapNext f b = mapNext f a := by
  cases h with
  | next h => exact congrArg Host.Outcome.next (hf _ _ h)
  | fault r => rfl
  | refused r => rfl

/-! ## Drawings -/

section
variable {R : State → State → Prop} (hR : KeptByDrawings R)
include hR

theorem KeptByDrawings.driveLine (l : Line) (v : Bool) {s t : State} (h : R s t) : R (driveLine l v s) (driveLine l v t) :=
  hR.busUpdate (.emit _) (hR.busUpdate (.setLevel l v) h)

theorem KeptByDrawings.raise (c : Cause) {s t : State} (h : R s t) : Progress.Alike R (raise c s) (raise c t) :=
  .halted (hR.busUpdate (.raise c) h)

theorem KeptByDrawings.busWrite (b : Byte) {s t : State} (h : R s t) : Progress.Alike R (busWrite b s) (busWrite b t) := by
  have hinit := hR.initialised h
  have hleft := hR.busLeft h
  unfold Machine.busWrite
  by_cases hi : s.initialised = false
  · rw [if_pos hi, if_pos (hinit.trans hi)]
    exact hR.raise _ h
  rw [if_neg hi, if_neg (fun hno => hi (hinit.symm.trans hno))]
  by_cases hb : s.busLeft = some 0
  · rw [if_pos hb, if_pos (hleft.trans hb), hR.params h]
    split
    · exact .halted (hR.busUpdate (.hang b) h)
    · exact hR.raise _ h
  · rw [if_neg hb, if_neg (fun hno => hb (hleft.symm.trans hno))]
    exact .done (hR.busUpdate (.emit _) (hR.busUpdate .spendByte h))

theorem KeptByDrawings.transaction (dc : Bool) (b : Byte) {s t : State} (h : R s t) :
    Progress.Alike R
      ((Machine.busWrite b (Machine.driveLine .cs false (Machine.driveLine .dc dc s))).andThen fun u =>
        .done (Machine.driveLine .cs true u))
      ((Machine.busWrite b (Machine.driveLine .cs false (Machine.driveLine .dc dc t))).andThen fun u =>
        .done (Machine.driveLine .cs true u)) :=
  (hR.busWrite b (hR.driveLine _ _ (hR.driveLine _ _ h))).andThen fun _ _ h => .done (hR.driveLine _ _ h)

theorem KeptByDrawings.sendCommand (b : Byte) {s t : State} (h : R s t) : Progress.Alike R (sendCommand b s) (sendCommand b t) := by
  unfold Machine.sendCommand
  rw [hR.initialised h]
  split
  · exact hR.raise _ h
  · exact hR.transaction false b h

theorem KeptByDrawings.sendData (b : Byte) {s t : State} (h : R s t) : Progress.Alike R (sendData b s) (sendData b t) := by
  unfold Machine.sendData
  rw [hR.initialised h]
  split
  · exact hR.raise _ h
  · exact hR.transaction true b h

theorem KeptByDrawings.openBurst {s t : State} (h : R s t) : Progress.Alike R (openBurst s) (openBurst t) := by
  unfold Machine.openBurst
  rw [hR.initialised h]
  split
  · exact hR.raise _ h
  · exact .done (hR.driveLine _ _ (hR.driveLine _ _ h))

theorem KeptByDrawings.burstSamples (vs : List Colour) {s t : State} (h : R s t) :
    Progress.Alike R (burstSamples vs s) (burstSamples vs t) := by
  induction vs generalizing s t with
  | nil => exact .done h
  | cons v vs ih =>
    have hsample : Progress.Alike R (burstSample v s) (burstSample v t) := (hR.busWrite _ h).andThen fun _ _ h => hR.busWrite _ h
    exact hsample.andThen fun _ _ h => ih h

theorem KeptByDrawings.send16 (c : Int) {s t : State} (h : R s t) : Progress.Alike R (send16 c s) (send16 c t) :=
  (hR.sendData _ h).andThen fun _ _ h => hR.sendData _ h

theorem KeptByDrawings.setAddressingWindow (x0 y0 x1 y1 : Int) {s t : State} (h : R s t) :
    Progress.Alike R (setAddressingWindow x0 y0 x1 y1 s) (setAddressingWindow x0 y0 x1 y1 t) := by
  unfold Machine.setAddressingWindow
  rw [hR.params h]
  refine (hR.sendCommand _ h).andThen fun _ _ h => (hR.send16 _ h).andThen fun _ _ h => (hR.send16 _ h).andThen fun _ _ h => ?_
  rw [hR.params h]
  refine (hR.sendCommand _ h).andThen fun _ _ h => (hR.send16 _ h).andThen fun _ _ h => (hR.send16 _ h).andThen fun _ _ h => ?_
  rw [hR.params h]
  exact (hR.sendCommand _ h).andThen fun _ _ h => hR.openBurst h

theorem KeptByDrawings.drawCell (x y : Int) (code : Byte) (fg bg : Colour) {s t : State} (h : R s t) :
    Progress.Alike R (drawCell x y code fg bg s) (drawCell x y code fg bg t) := by
  simp only [Machine.drawCell, blitGlyph, hR.params h]
  split
  · exact .done h
  · split
    · refine (hR.setAddressingWindow _ _ _ _ h).andThen fun _ _ h => ?_
      rw [hR.params h]
      exact (hR.burstSamples _ h).andThen fun _ _ h => .done (hR.driveLine _ _ h)
    · exact hR.raise _ h

theorem KeptByDrawings.drawCharBody (x y : Int) (code : Byte) (fg bg : Colour) {s t : State} (h : R s t) :
    Progress.Alike R (drawCharBody x y code fg bg s) (drawCharBody x y code fg bg t) := by
  unfold Machine.drawCharBody
  rw [hR.params h]
  exact (hR.drawCell _ _ _ _ _ h).andThen fun _ _ h => .done (hR.busUpdate (.setStatus _) h)

theorem KeptByDrawings.sendFill (x y we he : Int) (clipped : Bool) (colour : Colour) {s t : State} (h : R s t) :
    Progress.Alike R (sendFill x y we he clipped colour s) (sendFill x y we he clipped colour t) :=
  (hR.setAddressingWindow _ _ _ _ h).andThen fun _ _ h => (hR.burstSamples _ h).andThen fun _ _ h =>
    .done (hR.busUpdate (.setStatus _) (hR.driveLine _ _ h))

theorem KeptByDrawings.fillRectBody (x y w h : Int) (colour : Colour) {s t : State} (hst : R s t) :
    Progress.Alike R (fillRectBody x y w h colour s) (fillRectBody x y w h colour t) := by
  simp only [Machine.fillRectBody, hR.params hst]
  split_ifs
  · exact .done (hR.busUpdate (.setStatus _) hst)
  · exact hR.raise _ hst
  · exact hR.raise _ hst
  · exact hR.sendFill _ _ _ _ _ _ hst

theorem KeptByDrawings.guarded {f : State → Progress} {s t : State} (h : R s t) (hf : Progress.Alike R (f s) (f t)) :
    OutcomeAlike R (guarded f s) (guarded f t) := by
  unfold Machine.guarded
  rw [hR.stuck h, hR.fault h]
  split_ifs
  · exact .fault _
  · exact .next h
  · exact .next hf.state

end

/-! ## Every instruction and every step -/

section
variable {R : State → State → Prop} (hR : KeptBySteps R)
include hR

theorem KeptBySteps.putCoord (v : Int) {write : Word → State → State} (hwrite : ∀ w, RegisterUpdate (write w)) {s t : State}
    (h : R s t) : Progress.Alike R (putCoord v write s) (putCoord v write t) := by
  unfold Machine.putCoord
  split
  · exact .done (hR.registerUpdate (hwrite _) h)
  · exact hR.raise _ h

theorem KeptBySteps.wrapLine {s t : State} (h : R s t) : Progress.Alike R (wrapLine s) (wrapLine t) := by
  unfold Machine.wrapLine
  rw [hR.wrap h, hR.cursorX h, hR.cursorY h, hR.params h]
  split
  · refine (hR.putCoord _ .setCursorY (hR.registerUpdate (.setCursorX 0) h)).andThen fun _ _ h => ?_
    rw [hR.cursorY h, hR.params h]
    split
    · exact .done (hR.registerUpdate (.setCursorY 1) h)
    · exact .done h
  · exact .done h

theorem KeptBySteps.printable (code : Byte) {s t : State} (h : R s t) : Progress.Alike R (printable code s) (printable code t) := by
  unfold Machine.printable
  rw [hR.cursorX h, hR.cursorY h, hR.textColour h, hR.backgroundColour h, hR.params h]
  refine (hR.drawCell _ _ _ _ _ h).andThen fun u v h => ?_
  have hstaged := hR.registerUpdate (.stageStatus (cellStatus s.params (coord s.cursorX) (coord s.cursorY))) h
  simp only [hR.cursorX hstaged, hR.params hstaged]
  exact (hR.putCoord _ .setCursorX hstaged).andThen fun _ _ h => (hR.wrapLine h).andThen fun _ _ h =>
    .done (hR.registerUpdate .commitStatus h)

theorem KeptBySteps.lineFeed {s t : State} (h : R s t) : Progress.Alike R (lineFeed s) (lineFeed t) := by
  unfold Machine.lineFeed
  rw [hR.cursorY h, hR.params h]
  exact (hR.putCoord _ .setCursorY (hR.registerUpdate (.setCursorX 0) h)).andThen fun _ _ h =>
    .done (hR.busUpdate (.setStatus _) h)

theorem KeptBySteps.respond (v : Word) {s t : State} (h : R s t) : R (respond v s) (respond v t) := hR.busUpdate (.emit _) h

theorem KeptBySteps.writeBody (code : Byte) {s t : State} (h : R s t) : Progress.Alike R (writeBody code s) (writeBody code t) := by
  refine Progress.Alike.andThen ?_ fun _ _ h => .done (hR.respond 1 h)
  split_ifs
  · exact hR.lineFeed h
  · exact .done (hR.busUpdate (.setStatus _) h)
  · exact hR.printable code h

theorem KeptBySteps.setCursorBody (col row : Int) {s t : State} (h : R s t) :
    Progress.Alike R (setCursorBody col row s) (setCursorBody col row t) := by
  simp only [Machine.setCursorBody, hR.params h]
  split
  · exact .done (hR.busUpdate (.setStatus _) (hR.registerUpdate (.setCursorY _) (hR.registerUpdate (.setCursorX _) h)))
  · exact hR.raise _ h

theorem KeptBySteps.configureOutput (l : Line) {s t : State} (h : R s t) : R (configureOutput l s) (configureOutput l t) :=
  hR.busUpdate (.emit _) (hR.registerUpdate (.setOutput l) h)

theorem KeptBySteps.delayFor (ms : Nat) {s t : State} (h : R s t) : R (delayFor ms s) (delayFor ms t) := hR.busUpdate (.emit _) h

theorem KeptBySteps.pulseStep (level : Bool) {s t : State} (h : R s t) : R (pulseStep level s) (pulseStep level t) :=
  hR.delayFor 10 (hR.driveLine .rst level h)

theorem KeptBySteps.initBody {s t : State} (h : R s t) : Progress.Alike R (initBody s) (initBody t) := by
  have houtputs := hR.configureOutput .rst (hR.configureOutput .dc (hR.configureOutput .cs h))
  have hpulse := hR.pulseStep true (hR.pulseStep false (hR.pulseStep true (hR.registerUpdate .initialise houtputs)))
  exact .done (hR.registerUpdate .beginReplay hpulse)

theorem KeptBySteps.finishInit {s t : State} (h : R s t) : Progress.Alike R (finishInit s) (finishInit t) := by
  unfold Machine.finishInit
  rw [hR.backgroundColour h, hR.params h]
  exact (hR.fillRectBody _ _ _ _ _ h).andThen fun _ _ h => .done (hR.registerUpdate .endInit h)

theorem KeptBySteps.sendArguments (args : List Byte) {s t : State} (h : R s t) :
    Progress.Alike R (sendArguments args s) (sendArguments args t) := by
  induction args generalizing s t with
  | nil => exact .done h
  | cons a args ih => exact (hR.sendData a (hR.registerUpdate (.advanceTp 1) h)).andThen fun _ _ h => ih h

theorem KeptBySteps.recordBody (cmd : Byte) (args : List Byte) {s t : State} (h : R s t) :
    Progress.Alike R (recordBody cmd args s) (recordBody cmd args t) :=
  (hR.sendCommand cmd (hR.registerUpdate (.advanceTp 2) h)).andThen fun _ _ h => hR.sendArguments args h

theorem KeptBySteps.readTable {k : Byte → State → Progress} {s t : State} (h : R s t)
    (hk : ∀ b {s t : State}, R s t → Progress.Alike R (k b s) (k b t)) : Progress.Alike R (readTable k s) (readTable k t) := by
  simp only [Machine.readTable, tableRead, hR.params h, hR.tp h]
  split
  · exact hR.raise _ h
  · exact hk _ (hR.registerUpdate (.advanceTp 1) h)

theorem KeptBySteps.interpretArguments (n : Nat) {s t : State} (h : R s t) :
    Progress.Alike R (interpretArguments n s) (interpretArguments n t) := by
  induction n generalizing s t with
  | zero => exact .done h
  | succ n ih => exact hR.readTable h fun b _ _ h => (hR.sendData b h).andThen fun _ _ h => ih h

theorem KeptBySteps.interpretRecord {s t : State} (h : R s t) : Progress.Alike R (interpretRecord s) (interpretRecord t) := by
  refine hR.readTable h fun cmd _ _ h => hR.readTable h fun b _ _ h => (hR.sendCommand cmd h).andThen fun _ _ h =>
    (hR.interpretArguments _ h).andThen fun _ _ h => ?_
  split
  · exact hR.readTable h fun d _ _ h => .done (hR.registerUpdate .endRecord (hR.delayFor _ h))
  · exact .done (hR.registerUpdate .endRecord h)

theorem KeptBySteps.body (i : Instr) {s t : State} (h : R s t) : Progress.Alike R (body i s) (body i t) := by
  have hok : ∀ {u v : State}, R u v → Progress.Alike R (.done (setStatus .ok u)) (.done (setStatus .ok v)) :=
    fun h => .done (hR.busUpdate (.setStatus _) h)
  cases i with
  | init => exact hR.initBody h
  | write code => exact hR.writeBody code h
  | fillRect x y w hgt colour => exact hR.fillRectBody _ _ _ _ _ h
  | drawChar x y code fg bg => exact hR.drawCharBody _ _ _ _ _ h
  | setCursor col row => exact hR.setCursorBody _ _ h
  | setTextColour v => exact hok (hR.registerUpdate (.setTextColour v) h)
  | setBgColour v => exact hok (hR.registerUpdate (.setBackgroundColour v) h)
  | setTextWrap b => exact hok (hR.registerUpdate (.setWrap _) h)
  | getTextColour => simpa only [Machine.body, hR.textColour h] using hok (hR.respond _ h)
  | getBgColour => simpa only [Machine.body, hR.backgroundColour h] using hok (hR.respond _ h)
  | getCursorX => simpa only [Machine.body, hR.cursorX h] using hok (hR.respond _ h)
  | getCursorY => simpa only [Machine.body, hR.cursorY h] using hok (hR.respond _ h)
  | record cmd args => exact (hR.recordBody cmd args h).andThen fun _ _ h => .done (hR.registerUpdate .endRecord h)
  | recordDelay cmd args d =>
    exact (hR.recordBody cmd args h).andThen fun _ _ h =>
      .done (hR.registerUpdate .endRecord (hR.delayFor _ (hR.registerUpdate (.advanceTp 1) h)))
  | tableCount n => exact .done (hR.registerUpdate (.loadCount _) (hR.registerUpdate (.advanceTp 1) h))

theorem KeptBySteps.exec (i : Instr) {s t : State} (h : R s t) : OutcomeAlike R (exec i s) (exec i t) := by
  rw [exec_eq_guarded, exec_eq_guarded]
  exact hR.guarded h (hR.body i h)

theorem KeptBySteps.serveHost {s t : State} (h : R s t) : OutcomeAlike R (serveHost s) (serveHost t) := by
  have htaken := hR.registerUpdate .takeRequest h
  simp only [Machine.serveHost, serveFrame, hR.host h]
  split
  · exact .next h
  · split
    · exact hR.exec _ htaken
    · exact .next (hR.busUpdate (.setStatus _) htaken)
    · exact .refused _

theorem KeptBySteps.fetchHeader {s t : State} (h : R s t) : OutcomeAlike R (fetchHeader s) (fetchHeader t) := by
  simp only [Machine.fetchHeader, hR.params h, hR.tp h]
  split
  · exact hR.exec _ h
  · exact .next (hR.raise _ h).state

theorem KeptBySteps.fetchRecord {s t : State} (h : R s t) : OutcomeAlike R (fetchRecord s) (fetchRecord t) := by
  simp only [Machine.fetchRecord, hR.params h, hR.tp h, hR.rc h]
  split
  · exact .next (hR.finishInit h).state
  · split
    · exact hR.exec _ h
    · exact .next (hR.interpretRecord h).state

/-- A relation kept by every write is kept by a step. -/
theorem KeptBySteps.step {s t : State} (h : R s t) : OutcomeAlike R (step s) (step t) := by
  simp only [Machine.step, cycle, hR.stuck h, hR.fault h, hR.phase h]
  split_ifs
  · exact .fault _
  · exact .next (hR.registerUpdate .takeRequest h)
  · split
    · exact hR.serveHost h
    · exact hR.fetchHeader h
    · exact hR.fetchRecord h

end

/-! ## The three relations -/

/-- t is s but for the lines and the status. -/
def DiffersInUnread (s t : State) : Prop :=
  ∃ cs dc rst co dco ro st ds, t = { s with
    cs := cs, dc := dc, rst := rst, csOut := co, dcOut := dco, rstOut := ro, status := st, drawStatus := ds }

theorem withoutUnread_of_differsInUnread {s t : State} (h : DiffersInUnread s t) : withoutUnread t = withoutUnread s := by
  obtain ⟨cs, dc, rst, co, dco, ro, st, ds, rfl⟩ := h
  rfl

theorem differsInUnread_kept : KeptBySteps DiffersInUnread := by
  constructor
  case registerUpdate =>
    rintro f hf s t ⟨cs, dc, rst, co, dco, ro, st, ds, rfl⟩
    cases hf with
    | setOutput l => cases l <;> exact ⟨_, _, _, _, _, _, _, _, rfl⟩
    | _ => exact ⟨_, _, _, _, _, _, _, _, rfl⟩
  case toKeptByDrawings =>
    constructor
    case busUpdate =>
      rintro f hf s t ⟨cs, dc, rst, co, dco, ro, st, ds, rfl⟩
      cases hf with
      | setLevel l v => cases l <;> exact ⟨_, _, _, _, _, _, _, _, rfl⟩
      | _ => exact ⟨_, _, _, _, _, _, _, _, rfl⟩
    all_goals
      rintro s t ⟨cs, dc, rst, co, dco, ro, st, ds, rfl⟩
      rfl
  all_goals
    rintro s t ⟨cs, dc, rst, co, dco, ro, st, ds, rfl⟩
    rfl

/-- Settles O56: no step reads what `DiffersInUnread` lets differ. -/
theorem stepIgnoresLinesAndStatus : Obligations.StepIgnoresLinesAndStatus := by
  intro s cs dc rst co dco ro st ds
  have hdiffers : DiffersInUnread s { s with
      cs := cs, dc := dc, rst := rst, csOut := co, dcOut := dco, rstOut := ro, status := st, drawStatus := ds } :=
    ⟨cs, dc, rst, co, dco, ro, st, ds, rfl⟩
  exact (differsInUnread_kept.step hdiffers).mapNext_eq fun _ _ => withoutUnread_of_differsInUnread

/-- t is s with another history before the events that both have appended since. -/
def DiffersInPast (old new : List Event) (s t : State) : Prop := ∃ es, s.hist = old ++ es ∧ t = { s with hist := new ++ es }

theorem differsInPast_kept (old new : List Event) : KeptBySteps (DiffersInPast old new) := by
  constructor
  case registerUpdate =>
    rintro f hf s t ⟨es, hes, rfl⟩
    cases hf with
    | setOutput l => cases l <;> exact ⟨es, hes, rfl⟩
    | _ => exact ⟨es, hes, rfl⟩
  case toKeptByDrawings =>
    constructor
    case busUpdate =>
      rintro f hf s t ⟨es, hes, rfl⟩
      cases hf with
      | emit e => exact ⟨es ++ [e], by simp [hes], by simp [emit]⟩
      | setLevel l v => cases l <;> exact ⟨es, hes, rfl⟩
      | _ => exact ⟨es, hes, rfl⟩
    all_goals
      rintro s t ⟨es, -, rfl⟩
      rfl
  all_goals
    rintro s t ⟨es, -, rfl⟩
    rfl

/-- Settles O57: with another history before the step, the step appends the same events and does the same otherwise. -/
theorem stepNeverReadsTheHistory : Obligations.StepNeverReadsTheHistory := by
  intro s h
  have hdiffers : DiffersInPast s.hist h s { s with hist := h } := ⟨[], (List.append_nil _).symm, by rw [List.append_nil]⟩
  refine ((differsInPast_kept s.hist h).step hdiffers).eq_mapNext ?_
  rintro t _ ⟨es, hes, rfl⟩
  rw [hes, List.drop_left]

/-- t is s with these values in the five surface registers. -/
def DiffersInSurface (x y : Word) (tc bg : Colour) (w : Bool) (s t : State) : Prop :=
  t = { s with cursorX := x, cursorY := y, textColour := tc, backgroundColour := bg, wrap := w }

theorem differsInSurface_kept (x y : Word) (tc bg : Colour) (w : Bool) : KeptByDrawings (DiffersInSurface x y tc bg w) := by
  constructor
  case busUpdate =>
    rintro f hf s t rfl
    cases hf with
    | setLevel l v => cases l <;> rfl
    | _ => rfl
  all_goals
    rintro s t rfl
    rfl

/-- Settles O58: the drawings' own part of the argument does without the surface registers. -/
theorem drawingReadsNoSurfaceRegister : Obligations.DrawingReadsNoSurfaceRegister := by
  intro i s x y tc bg w hi
  have hkept := differsInSurface_kept x y tc bg w
  have hdiffers : DiffersInSurface x y tc bg w s
      { s with cursorX := x, cursorY := y, textColour := tc, backgroundColour := bg, wrap := w } := rfl
  refine OutcomeAlike.eq_mapNext (R := DiffersInSurface x y tc bg w) ?_ fun _ _ h => h
  rw [exec_eq_guarded, exec_eq_guarded]
  refine hkept.guarded hdiffers ?_
  rcases hi with ⟨a, b, code, f, g, rfl⟩ | ⟨a, b, c, d, colour, rfl⟩
  · exact hkept.drawCharBody _ _ _ _ _ hdiffers
  · exact hkept.fillRectBody _ _ _ _ _ hdiffers

end Sys2Proof.Machine
end

section
/-! PROOFS. Construction, what a step runs, and the engine that has stopped: obligations O1, O7 to O11, O16, O22, O44 and O48. -/

namespace Sys2Proof

/-! ## Frames -/

theorem decodeFrame_of_reserved {op : Byte} (ops : List Byte) (hop : 12 ≤ op.toNat) :
    decodeFrame (op :: ops) = .error (.reservedOpcode op) := if_pos hop

/-- A host frame begins with a defined opcode, which fixes its length. -/
theorem encode_opcode {i : Instr} (hstream : i.stream = .host) :
    ∃ op ops, encode i = op :: ops ∧ op.toNat < 12 ∧ (encode i).length = frameLength op.toNat := by
  cases i with
  | record | recordDelay | tableCount => cases hstream
  | init | write | fillRect | drawChar | setCursor | setTextColour | getTextColour | setBgColour | getBgColour | setTextWrap
  | getCursorX | getCursorY => exact ⟨_, _, rfl, by decide, rfl⟩

theorem decodeFrame_of_wrongLength {op : Byte} {ops : List Byte} (hop : op.toNat < 12)
    (hlen : (op :: ops).length ≠ frameLength op.toNat) : decodeFrame (op :: ops) = .error (.wrongLength op) := by
  have hnone : decodeOperands op.toNat ops = none := by
    cases hj : decodeOperands op.toNat ops with
    | none => rfl
    | some j =>
      obtain ⟨-, hstream, henc⟩ := encode_of_decodeOperands hj
      obtain ⟨op', ops', henc', -, hlen'⟩ := encode_opcode hstream
      rw [henc, BitVec.ofNat_toNat, BitVec.setWidth_eq] at henc' hlen'
      obtain ⟨rfl, -⟩ := List.cons.inj henc'
      exact absurd hlen' hlen
  simp [decodeFrame, hnone, Nat.not_le.2 hop]

end Sys2Proof

namespace Sys2Proof.Machine

/-! ## Construction -/

/-- Settles O1: every field as `State.construct` writes it. -/
theorem resetLeavesTheTabulatedState : Obligations.ResetLeavesTheTabulatedState := by
  refine ⟨fun p cs dc rst o => ?_, Config.csAtReset, Config.dcAtReset, Config.rstAtReset, Config.busLeft, rfl⟩
  simp only [State.construct, and_self]

/-! ## What a step runs -/

theorem step_of_idle {s : State} (hready : Ready s) (hphase : s.phase = .idle) : step s = serveHost s := by
  rw [step_ready s hready, hphase]

theorem step_of_header {s : State} (hready : Ready s) (hphase : s.phase = .header) : step s = fetchHeader s := by
  rw [step_ready s hready, hphase]

theorem step_of_records {s : State} (hready : Ready s) (hphase : s.phase = .records) : step s = fetchRecord s := by
  rw [step_ready s hready, hphase]

theorem step_of_request {s : State} (hready : Ready s) (hphase : s.phase = .idle) {frame : Frame} {rest : List Frame}
    (hhost : s.host = frame :: rest) : step s = serveFrame frame { s with host := rest } := by
  have htaken : takeRequest s = { s with host := rest } := by rw [takeRequest, hhost]; rfl
  rw [step_of_idle hready hphase, ← htaken]
  simp only [serveHost, hhost]

theorem serveFrame_of_decoded {frame : Frame} {i : Instr} (h : decodeFrame frame = .ok i) (s : State) :
    serveFrame frame s = exec i s := by simp only [serveFrame, h]

theorem serveFrame_of_wrongLength {op : Byte} {ops : List Byte} (hop : op.toNat < 12)
    (hlen : (op :: ops).length ≠ frameLength op.toNat) (s : State) : serveFrame (op :: ops) s = .refused .malformedFrame := by
  simp only [serveFrame, decodeFrame_of_wrongLength hop hlen]

/-- Settles O7: each phase's fetch answers `exec` of what it decodes. -/
theorem stepRunsTheDecodedInstruction : Obligations.StepRunsTheDecodedInstruction := by
  intro i s hready
  refine ⟨fun frame rest hphase hhost hframe => ?_, fun tail hphase hheader => ?_, fun tail hphase hrc hrecord => ?_⟩
  · rw [step_of_request hready hphase hhost, serveFrame_of_decoded hframe]
  · rw [step_of_header hready hphase]
    simp only [fetchHeader, hheader]
  · rw [step_of_records hready hphase]
    simp only [fetchRecord, if_neg hrc, hrecord]

/-- Settles O8: the word's stream says where it is placed, and the step there is O7's. -/
theorem placedWordIsRunNext : Obligations.PlacedWordIsRunNext := by
  intro i s nbits w hready hword
  unfold decodeTableWord at hword
  split at hword
  next j rest hdecode =>
    cases hword
    unfold State.withFetchWord placeWord
    cases hstream : wordStream nbits w with
    | host =>
      rw [hstream] at hdecode
      have hframe := (decode_host_eq_ok hdecode).1
      rw [if_pos (encode_of_decodeFrame hframe).2.1]
      exact (stepRunsTheDecodedInstruction i (placeFrame _ s) hready).1 _ _ rfl rfl hframe
    | header =>
      rw [hstream] at hdecode
      rw [if_neg (by rw [(encode_of_decodeHeader hdecode).2.1]; exact Stream.noConfusion)]
      exact (stepRunsTheDecodedInstruction i (placeTable _ .header 0 s.rc s) hready).2.1 _ rfl hdecode
    | records =>
      rw [hstream] at hdecode
      rw [if_neg (by rw [(encode_of_decodeRecord hdecode).2.1]; exact Stream.noConfusion)]
      exact (stepRunsTheDecodedInstruction i (placeTable _ .records 1 1 s) hready).2.2 _ rfl Nat.one_ne_zero hdecode
  next => cases hword

/-- Settles O9: an empty port is waited on; a reserved opcode is decoded as such, whatever follows it. -/
theorem idleAndReservedRequests : Obligations.IdleAndReservedRequests := by
  intro s hready hphase
  refine ⟨fun hhost => ?_, fun op ops rest hhost hop => ?_⟩
  · rw [step_of_idle hready hphase]
    simp only [serveHost, hhost]
  · rw [step_of_request hready hphase hhost]
    simp only [serveFrame, decodeFrame_of_reserved ops hop]
    rfl

/-- Settles O10: an empty frame is no frame, and the opcode of a defined operation fixes the length of its frame. -/
theorem undefinedFrameIsRefused : Obligations.UndefinedFrameIsRefused := by
  intro s frame rest hready hphase hhost hframe
  rw [step_of_request hready hphase hhost]
  rcases hframe with rfl | ⟨i, ops, hstream, rfl, hlen⟩
  · rfl
  · obtain ⟨op, ops', henc, hop, hlength⟩ := encode_opcode hstream
    rw [hlength, henc] at hlen
    rw [henc]
    exact serveFrame_of_wrongLength hop hlen _

/-- Settles O16: `.count` is one update of the state. -/
theorem tableCountLoadsTheCounter : Obligations.TableCountLoadsTheCounter := fun n s hready => exec_ready (.tableCount n) s hready

theorem fetchHeader_of_end {s : State} (h : unread s = []) : fetchHeader s = .next (raise (.decodeError s.tp) s).state := by
  rw [unread] at h
  simp only [fetchHeader, h, decodeHeader]

theorem fetchHeader_of_count {s : State} {n : Byte} {rest : List Byte} (h : unread s = n :: rest) :
    fetchHeader s = exec (.tableCount n) s := by
  rw [unread] at h
  simp only [fetchHeader, h, decodeHeader]

/-- Settles O22: the read of the count raises. -/
theorem emptyTableFaultsAtItsCount : Obligations.EmptyTableFaultsAtItsCount := by
  intro s hready hphase htable htp
  have hend : unread s = [] := by rw [unread, htable, List.drop_nil]
  rw [step_of_header hready hphase, fetchHeader_of_end hend]
  exact congrArg (fun a => Host.Outcome.next (raise (.decodeError a) s).state) htp

/-- Settles O44: INIT's own step in one piece. -/
theorem initBringsUpTheLines : Obligations.InitBringsUpTheLines := by
  intro s hready
  have hbody : body .init s = initBody s := rfl
  rw [exec_ready .init s hready, hbody, initBody_eq]
  rfl

/-! ## One byte -/

/-- Settles O11: the oracle and the timeout decide. -/
theorem busWriteEndsInOneOfFourWays : Obligations.BusWriteEndsInOneOfFourWays := by
  intro b s
  refine ⟨fun hi => if_pos hi, fun hi hb => ?_, busWrite_hangs, busWrite_times_out⟩
  have hcompletes : busCompletes 1 s.busLeft = true := by
    by_contra hno
    exact hb ((busCompletes_one_eq_false_iff _).1 (Bool.eq_false_iff.2 hno))
  exact busWrite_done b s hi hcompletes

/-! ## The engine that has stopped -/

theorem step_of_faulted {c : Cause} {s : State} (hstuck : s.stuck = none) (hfault : s.fault = some c) :
    step s = .next (takeRequest s) := by simp [step, cycle, hstuck, hfault]

theorem run_of_faulted {c : Cause} {s : State} (hstuck : s.stuck = none) (hfault : s.fault = some c) (k : Nat) :
    run k s = .next { s with host := s.host.drop k } := by
  induction k generalizing s with
  | zero => rfl
  | succ k ih =>
    rw [run, step_of_faulted hstuck hfault]
    simp only
    rw [ih (s := takeRequest s) hstuck hfault]
    simp only [takeRequest, List.drop_tail]

/-- Settles O48: `guarded` and `cycle` ask for a stop before they do anything. -/
theorem stoppedEngineExecutesNothing : Obligations.StoppedEngineExecutesNothing := by
  refine ⟨fun c s hstuck hfault => ⟨fun i => ?_, run_of_faulted hstuck hfault⟩, fun b s hstuck => ⟨?_, fun i => ?_⟩⟩
  · simp [exec_eq_guarded, guarded, hstuck, hfault]
  · simp [step, cycle, hstuck]
  · simp [exec_eq_guarded, guarded, hstuck]

end Sys2Proof.Machine
end

section
/-! PROOFS. The addressing window and the two drawings: what the panel receives, what is sent, what faults, and obligations O14, O15
and O26 to O32 (41_command_protocol.md section 1, 43_display_surface.md sections 2 and 3). -/

namespace Sys2Proof.Machine

/-! ## What the panel receives -/

/-- The window drives both lines before its bytes, so the levels before it do not matter; it leaves the burst open. -/
theorem logicalFrom_windowEvents_append (cs dc : Bool) (p : Params) (x0 y0 x1 y1 : Int) (es : List Event) :
    logicalFrom cs dc (windowEvents p x0 y0 x1 y1 ++ es) = windowStream p x0 y0 x1 y1 ++ logicalFrom false true es := rfl

theorem logicalFrom_sampleEvents_append (vs : List Colour) (es : List Event) :
    logicalFrom false true (sampleEvents vs ++ es) = sampleStream vs ++ logicalFrom false true es := by
  induction vs with
  | nil => rfl
  | cons v vs ih =>
    change Logical.data (hi8 v) :: .data (lo8 v) :: logicalFrom false true (sampleEvents vs ++ es) = _
    rw [ih]
    rfl

/-- Settles O14: the window when its bytes complete, its two counts, and its logical stream after any history. -/
theorem windowSendsColumnThenRowSwapped : Obligations.WindowSendsColumnThenRowSwapped := by
  intro x0 y0 x1 y1 s hi hb
  refine ⟨setAddressingWindow_done x0 y0 x1 y1 s hi hb, rfl, rfl, fun hist => ?_⟩
  obtain ⟨cs, dc, happend⟩ := logicalFrom_append true true hist
  exact happend (windowEvents s.params x0 y0 x1 y1)

/-- Settles O15: the window's stream, the samples' stream, and nothing for the release of CS. -/
theorem logicalStreamOfADrawing : Obligations.LogicalStreamOfADrawing := by
  intro hist p x0 y0 x1 y1 vs
  obtain ⟨cs, dc, happend⟩ := logicalFrom_append true true hist
  have hdraw : logicalFrom cs dc (drawEvents p x0 y0 x1 y1 vs) = windowStream p x0 y0 x1 y1 ++ sampleStream vs := by
    rw [drawEvents, List.append_assoc, logicalFrom_windowEvents_append, logicalFrom_sampleEvents_append]
    simp [logicalFrom]
  rw [logicalStream, happend, hdraw, ← List.append_assoc]
  rfl

/-! ## Before INIT -/

theorem setAddressingWindow_of_uninitialised (x0 y0 x1 y1 : Int) {s : State} (hi : s.initialised = false) :
    setAddressingWindow x0 y0 x1 y1 s = raise .notInitialised s := by
  rw [setAddressingWindow, sendCommand_of_uninitialised _ s hi]
  rfl

/-! ## DRAWCHAR -/

theorem cellStatus_outside {p : Params} {x y : Int} (h : CellOutside p x y) : cellStatus p x y = .outOfBounds := by
  rw [cellStatus_eq, if_pos h]

theorem cellStatus_meets {p : Params} {x y : Int} (h : ¬ CellOutside p x y) :
    cellStatus p x y = if CellInside p x y then .ok else .clippedPartial := by rw [cellStatus_eq, if_neg h]

theorem drawCell_done {x y : Int} (code : Byte) (fg bg : Colour) {s : State} (hi : s.initialised = true)
    (h : ¬ CellOutside s.params x y) (hfits : CellFits s.params x y) (hb : busCompletes (glyphBytes s.params) s.busLeft = true) :
    drawCell x y code fg bg s = .done (afterBus true true (cellEvents s.params x y code fg bg) (glyphBytes s.params) s) := by
  obtain ⟨hx, hy⟩ := inCoord_of_fits h hfits
  rw [drawCell_meets x y code fg bg s h, blitGlyph_done x y code fg bg s hi hx hy hb, cellEvents]

theorem not_inCoord_of_not_fits {p : Params} {x y : Int} (h : ¬ CellFits p x y) :
    ¬ (inCoord (x + p.textWidth - 1) && inCoord (y + p.textHeight - 1)) = true := by
  simp only [Bool.and_eq_true, inCoord_iff]
  simp only [CellFits] at h
  omega

theorem drawCell_overflows {x y : Int} (code : Byte) (fg bg : Colour) {s : State} (h : ¬ CellOutside s.params x y)
    (hfits : ¬ CellFits s.params x y) : drawCell x y code fg bg s = raise .coordOverflow s := by
  rw [drawCell_meets x y code fg bg s h, blitGlyph, if_neg (not_inCoord_of_not_fits hfits)]

theorem drawCell_of_uninitialised {x y : Int} (code : Byte) (fg bg : Colour) {s : State} (h : ¬ CellOutside s.params x y)
    (hfits : CellFits s.params x y) (hi : s.initialised = false) : drawCell x y code fg bg s = raise .notInitialised s := by
  obtain ⟨hx, hy⟩ := inCoord_of_fits h hfits
  rw [drawCell_meets x y code fg bg s h, blitGlyph, if_pos (by rw [hx, hy]; rfl), setAddressingWindow_of_uninitialised _ _ _ _ hi]
  rfl

theorem body_drawChar (x y : Word) (code : Byte) (fg bg : Colour) (s : State) :
    body (.drawChar x y code fg bg) s
      = (drawCell (coord x) (coord y) code fg bg s).andThen fun t => .done (setStatus (cellStatus s.params (coord x) (coord y)) t) := rfl

/-- Settles O26: nothing is drawn, and the status line says so. -/
theorem drawCharOutsideIsANoOp : Obligations.DrawCharOutsideIsANoOp := by
  intro x y code fg bg s hready hout
  rw [exec_ready _ s hready, body_drawChar, drawCell_outside _ _ code fg bg s hout, cellStatus_outside hout]
  rfl

/-- Settles O27: the cell's events, then the status line. -/
theorem drawCharSendsTheWholeCell : Obligations.DrawCharSendsTheWholeCell := by
  intro x y code fg bg s hready hi hout hfits hb
  rw [exec_ready _ s hready, body_drawChar, drawCell_done code fg bg hi hout hfits hb, cellStatus_meets hout]
  simp only [Progress.andThen_done, Progress.state_done, afterBus, cellEvents, drawEvents, setStatus, ← List.append_assoc]
  rfl

/-- Settles O28: the cell's corner is checked before the bus is touched. -/
theorem drawCharTraps : Obligations.DrawCharTraps := by
  intro x y code fg bg s hready hout
  refine ⟨fun hfits => ?_, fun hfits hi => ?_⟩
  · rw [exec_ready _ s hready, body_drawChar, drawCell_overflows code fg bg hout hfits]
    rfl
  · rw [exec_ready _ s hready, body_drawChar, drawCell_of_uninitialised code fg bg hout hfits hi]
    rfl

/-- Settles O29: the drawing has sent its events or broken off behind an initial piece of them, and only then the status is set. -/
theorem drawCharLeavesAnInitialPiece : Obligations.DrawCharLeavesAnInitialPiece := by
  intro x y code fg bg s hready hout
  have hsends := drawCell_sends (coord x) (coord y) code fg bg s
  rw [if_neg hout] at hsends
  rw [exec_ready _ s hready, body_drawChar]
  cases hcell : drawCell (coord x) (coord y) code fg bg s with
  | done u =>
    have hu : Sent (cellEvents s.params (coord x) (coord y) code fg bg) s u := by rwa [hcell] at hsends
    exact ⟨_, _, rfl, hu.hist, List.prefix_refl _, fun _ => rfl, fun hno => absurd (hu.ready hready) hno⟩
  | halted u =>
    have hu : BrokeOff (cellEvents s.params (coord x) (coord y) code fg bg) s u := by rwa [hcell] at hsends
    obtain ⟨sent, hsent, hhist⟩ := hu.events
    exact ⟨u, sent, rfl, hhist, hsent, fun hyes => absurd hyes hu.not_ready, fun _ => by rw [hu.frame.2]⟩

/-! ## FILLRECT -/

theorem body_fillRect (x y w h : Word) (colour : Colour) (s : State) :
    body (.fillRect x y w h colour) s = fillRectBody (coord x) (coord y) (coord w) (coord h) colour s := rfl

theorem fillRectBody_outside {x y : Int} (w h : Int) (colour : Colour) {s : State}
    (hout : x < 0 ∨ y < 0 ∨ x ≥ s.params.width ∨ y ≥ s.params.height) :
    fillRectBody x y w h colour s = .done (setStatus .outOfBounds s) := if_pos hout

/-- With the top-left on the surface: a size below 1, or a top row past WIDTH, is refused; any other rectangle is clamped and sent. -/
theorem fillRectBody_inside {x y : Int} (w h : Int) (colour : Colour) {s : State}
    (hin : ¬ (x < 0 ∨ y < 0 ∨ x ≥ s.params.width ∨ y ≥ s.params.height)) :
    fillRectBody x y w h colour s
      = if w < 1 ∨ h < 1 ∨ y ≥ s.params.width then raise .operandUnspecified s
        else sendFill x y (clampAt s.params.width x (w - 1)) (clampAt s.params.width y (h - 1))
          (clipsAt s.params.width x (w - 1) || clipsAt s.params.width y (h - 1)) colour s := by
  simp only [fillRectBody, if_neg hin]
  by_cases hsize : w < 1 ∨ h < 1
  · rw [if_pos hsize, if_pos (by tauto)]
  · rw [if_neg hsize]
    have hclamp : clampAt s.params.width y (h - 1) < 0 ↔ y ≥ s.params.width := by
      rw [clampAt_eq_min]
      omega
    by_cases hy : y ≥ s.params.width
    · rw [if_pos (hclamp.2 hy), if_pos (.inr (.inr hy))]
    · rw [if_neg (mt hclamp.1 hy), if_neg (by tauto)]

/-- Settles O30: the surface test comes first. -/
theorem fillRectOutsideIsANoOp : Obligations.FillRectOutsideIsANoOp := by
  intro x y w h colour s hready hout
  rw [exec_ready _ s hready, body_fillRect, fillRectBody_outside _ _ colour hout]
  rfl

/-- The status of a clamped fill. -/
theorem fillStatus_clips (n : Nat) (x y we he : Int) :
    fillStatus (clipsAt n x we || clipsAt n y he)
      = if min we ((n : Int) - 1 - x) < we ∨ min he ((n : Int) - 1 - y) < he then .clippedPartial else .ok := by
  simp only [fillStatus, Bool.or_eq_true, clipsAt_iff]

/-- Settles O31: the clamps are the minima of the statement, and the fill sends its events. -/
theorem fillRectSendsTheClampedRectangle : Obligations.FillRectSendsTheClampedRectangle := by
  intro x y w h colour s hready hi hx hy hxw hyh hyw hw hh we he n hb
  rw [exec_ready _ s hready, body_fillRect, fillRectBody_inside _ _ colour (by simp only [coord]; omega),
    if_neg (by simp only [coord]; omega), clampAt_eq_min, clampAt_eq_min,
    sendFill_done _ _ _ _ _ colour s n hi rfl hb, fillStatus_clips]
  simp only [Progress.state_done, afterBus, drawEvents, setStatus, sampleEvents_replicate, ← List.append_assoc]
  rfl

/-- Settles O32: the two refusals in their order. -/
theorem fillRectTraps : Obligations.FillRectTraps := by
  intro x y w h colour s hready hx hy hxw hyh
  have hin : ¬ (coord x < 0 ∨ coord y < 0 ∨ coord x ≥ s.params.width ∨ coord y ≥ s.params.height) := by
    simp only [coord]
    omega
  rw [exec_ready _ s hready, body_fillRect, fillRectBody_inside _ _ colour hin]
  refine ⟨fun hbad => ?_, fun hgood hi => ?_⟩
  · rw [if_pos hbad]
    rfl
  · rw [if_neg hgood, sendFill, setAddressingWindow_of_uninitialised _ _ _ _ hi]
    rfl

end Sys2Proof.Machine
end

section
/-! PROOFS. WRITE: line feed, the advance and the wrap after a drawing, and obligations O33 and O35 to O38 (43_display_surface.md
sections 1 and 7). -/

namespace Sys2Proof.Machine

/-! ## Sums with a cell size -/

/-- A coordinate and a cell size never add up to less than the least coordinate. -/
theorem inCoord_add_iff (w : Word) (n : Nat) : inCoord (coord w + n) = true ↔ w.toInt + n ≤ 32767 := by
  have hlow := le_coord w
  rw [inCoord_iff]
  simp only [coord]
  omega

/-! ## The characters -/

theorem body_write_lineFeed (s : State) : body (.write 0x0A#8) s = (lineFeed s).andThen fun t => .done (respond 1 t) := rfl

theorem body_write_printable {code : Byte} (s : State) (hlf : code ≠ 0x0A#8) (hcr : code ≠ 0x0D#8) :
    body (.write code) s = (printable code s).andThen fun t => .done (respond 1 t) := by
  have hlf' : code.toNat ≠ 10 := fun h => hlf (BitVec.eq_of_toNat_eq h)
  have hcr' : code.toNat ≠ 13 := fun h => hcr (BitVec.eq_of_toNat_eq h)
  rw [body, writeBody, if_neg hlf', if_neg hcr']

/-- Settles O33: cursorX is written first, then cursorY if the sum is a coordinate. -/
theorem writeLineFeedMovesToTheNextLine : Obligations.WriteLineFeedMovesToTheNextLine := by
  intro s hready
  rw [exec_ready _ s hready, body_write_lineFeed, lineFeed]
  refine ⟨fun hfits => ?_, fun hno => ?_⟩
  · have hin := (inCoord_add_iff s.cursorY s.params.textHeight).2 hfits
    rw [putCoord_fits hin]
    exact ⟨_, toInt_u16 hin, rfl⟩
  · rw [putCoord_overflows (Bool.eq_false_iff.2 (mt (inCoord_add_iff s.cursorY s.params.textHeight).1 hno))]
    rfl

/-! ## The wrap -/

/-- The wrap fires: it is on and the cell at the cursor would pass the row's end. -/
abbrev WrapFires (s : State) : Prop := s.wrap = true ∧ coord s.cursorX > (s.params.width : Int) - s.params.textWidth

theorem wrapLine_stays {s : State} (h : ¬ WrapFires s) : wrapLine s = .done s := if_neg h

theorem wrapLine_to_next_row {s : State} (h : WrapFires s) (hfits : s.cursorY.toInt + s.params.textHeight ≤ 32767)
    (hrow : s.cursorY.toInt + s.params.textHeight ≤ s.params.height) :
    wrapLine s = .done { s with cursorX := 0, cursorY := u16 (s.cursorY.toInt + s.params.textHeight) } := by
  have hin := (inCoord_add_iff s.cursorY s.params.textHeight).2 hfits
  rw [wrapLine, if_pos h, putCoord_fits hin, Progress.andThen_done]
  simp only [setCursorY, setCursorX, coord, toInt_u16 hin]
  rw [if_neg (not_lt.2 hrow)]

/-- Past the bottom cursorY becomes 1, the preserved quirk. -/
theorem wrapLine_past_bottom {s : State} (h : WrapFires s) (hfits : s.cursorY.toInt + s.params.textHeight ≤ 32767)
    (hrow : ¬ s.cursorY.toInt + s.params.textHeight ≤ s.params.height) :
    wrapLine s = .done { s with cursorX := 0, cursorY := 1 } := by
  have hin := (inCoord_add_iff s.cursorY s.params.textHeight).2 hfits
  rw [wrapLine, if_pos h, putCoord_fits hin, Progress.andThen_done]
  simp only [setCursorY, setCursorX, coord, toInt_u16 hin]
  rw [if_pos (not_le.1 hrow)]

theorem wrapLine_overflows {s : State} (h : WrapFires s) (hno : ¬ s.cursorY.toInt + s.params.textHeight ≤ 32767) :
    wrapLine s = raise .coordOverflow (setCursorX 0 s) := by
  rw [wrapLine, if_pos h, putCoord_overflows (Bool.eq_false_iff.2 (mt (inCoord_add_iff s.cursorY s.params.textHeight).1 hno))]
  rfl

/-! ## After the drawing -/

/-- What WRITE does once the glyph is drawn and its status staged: the advance, the wrap, the end. -/
def advanceCursor (s : State) : Progress :=
  (putCoord (coord s.cursorX + s.params.textWidth) setCursorX s).andThen fun t => (wrapLine t).andThen fun t => .done (commitStatus t)

theorem exec_write_of_drawn {code : Byte} {s u : State} (hready : Ready s) (hlf : code ≠ 0x0A#8) (hcr : code ≠ 0x0D#8)
    (hdrawn : drawCell (coord s.cursorX) (coord s.cursorY) code s.textColour s.backgroundColour s = .done u) :
    exec (.write code) s = .next ((advanceCursor (stageStatus (cellStatus s.params (coord s.cursorX) (coord s.cursorY)) u)).andThen
      fun t => .done (respond 1 t)).state := by
  rw [exec_ready _ s hready, body_write_printable s hlf hcr, printable, hdrawn]
  rfl

theorem advanceCursor_fits {s : State} (hfits : s.cursorX.toInt + s.params.textWidth ≤ 32767) :
    advanceCursor s = (wrapLine (setCursorX (u16 (coord s.cursorX + s.params.textWidth)) s)).andThen fun t =>
      .done (commitStatus t) := by
  rw [advanceCursor, putCoord_fits ((inCoord_add_iff s.cursorX s.params.textWidth).2 hfits)]
  rfl

theorem advanceCursor_overflows {s : State} (hno : ¬ s.cursorX.toInt + s.params.textWidth ≤ 32767) :
    advanceCursor s = raise .coordOverflow s := by
  rw [advanceCursor, putCoord_overflows (Bool.eq_false_iff.2 (mt (inCoord_add_iff s.cursorX s.params.textWidth).1 hno))]
  rfl

/-- The cursor register after an advance that fits. -/
theorem coord_advanced {s : State} (hfits : s.cursorX.toInt + s.params.textWidth ≤ 32767) :
    coord (u16 (coord s.cursorX + s.params.textWidth)) = s.cursorX.toInt + s.params.textWidth :=
  toInt_u16 ((inCoord_add_iff s.cursorX s.params.textWidth).2 hfits)

/-- With every sum a coordinate, the cursor ends where the spec's derived table says. -/
theorem advanceCursor_done {s : State} (hsums : CursorSumsFit s.params s.wrap s.cursorX.toInt s.cursorY.toInt) :
    ∃ x y : Word, (x.toInt, y.toInt) = cursorAfter s.params s.wrap s.cursorX.toInt s.cursorY.toInt
      ∧ advanceCursor s = .done (commitStatus { s with cursorX := x, cursorY := y }) := by
  obtain ⟨hadvance, hline⟩ := hsums
  have hx := coord_advanced hadvance
  rw [advanceCursor_fits hadvance]
  by_cases hfires : WrapFires (setCursorX (u16 (coord s.cursorX + s.params.textWidth)) s)
  · have hpast : s.cursorX.toInt + s.params.textWidth > (s.params.width : Int) - s.params.textWidth := hx ▸ hfires.2
    have hin := hline hfires.1 hpast
    have hnot : ¬ (s.wrap = false ∨ s.cursorX.toInt + s.params.textWidth ≤ (s.params.width : Int) - s.params.textWidth) := by
      rw [show s.wrap = true from hfires.1]
      exact not_or.2 ⟨Bool.noConfusion, not_le.2 hpast⟩
    rw [cursorAfter, if_neg hnot]
    by_cases hrow : s.cursorY.toInt + s.params.textHeight ≤ s.params.height
    · rw [wrapLine_to_next_row hfires hin hrow, if_pos hrow]
      exact ⟨_, _, Prod.ext rfl (toInt_u16 ((inCoord_add_iff s.cursorY s.params.textHeight).2 hin)), rfl⟩
    · rw [wrapLine_past_bottom hfires hin hrow, if_neg hrow]
      exact ⟨_, _, rfl, rfl⟩
  · have hstays : s.wrap = false ∨ s.cursorX.toInt + s.params.textWidth ≤ (s.params.width : Int) - s.params.textWidth := by
      rw [← hx]
      by_cases hwrap : s.wrap = true
      · exact .inr (not_lt.1 fun hpast => hfires ⟨hwrap, hpast⟩)
      · exact .inl (Bool.eq_false_iff.2 hwrap)
    rw [wrapLine_stays hfires, cursorAfter, if_pos hstays]
    exact ⟨_, s.cursorY, Prod.ext hx rfl, rfl⟩

/-- Settles O35: nothing is drawn, and the cursor moves all the same. -/
theorem writeOffTheSurfaceStillAdvances : Obligations.WriteOffTheSurfaceStillAdvances := by
  intro code s hready hlf hcr hout hsums
  have hdrawn := drawCell_outside (coord s.cursorX) (coord s.cursorY) code s.textColour s.backgroundColour s hout
  rw [exec_write_of_drawn hready hlf hcr hdrawn, cellStatus_outside hout]
  obtain ⟨x, y, hcursor, hadvance⟩ := advanceCursor_done (s := stageStatus .outOfBounds s) hsums
  rw [hadvance]
  exact ⟨x, y, hcursor, rfl⟩

/-- Settles O36: the cell's events, then the cursor, then the response. -/
theorem writeDrawsThenMovesTheCursor : Obligations.WriteDrawsThenMovesTheCursor := by
  intro code s hready hi hlf hcr hout hfits hsums hb
  have hdrawn := drawCell_done code s.textColour s.backgroundColour hi hout hfits hb
  rw [exec_write_of_drawn hready hlf hcr hdrawn, cellStatus_meets hout]
  obtain ⟨x, y, hcursor, hadvance⟩ := advanceCursor_done (s := stageStatus _ (afterBus true true
    (cellEvents s.params s.cursorX.toInt s.cursorY.toInt code s.textColour s.backgroundColour) (glyphBytes s.params) s)) hsums
  rw [hadvance]
  exact ⟨x, y, hcursor, rfl⟩

/-- Settles O37: the drawing's own faults leave nothing behind; after a drawing that returned, the advance or the wrap faults. -/
theorem writeTraps : Obligations.WriteTraps := by
  intro code s hready hlf hcr p x y
  refine ⟨fun hout hfits => ?_, fun hout hfits hi => ?_, fun drawn hcase => ?_⟩
  · rw [exec_ready _ s hready, body_write_printable s hlf hcr, printable, drawCell_overflows code _ _ hout hfits]
    rfl
  · rw [exec_ready _ s hready, body_write_printable s hlf hcr, printable, drawCell_of_uninitialised code _ _ hout hfits hi]
    rfl
  · obtain ⟨hexec, hx, hy, hwrap, hparams⟩ : exec (.write code) s = .next ((advanceCursor drawn).andThen fun t =>
        .done (respond 1 t)).state ∧ drawn.cursorX = s.cursorX ∧ drawn.cursorY = s.cursorY ∧ drawn.wrap = s.wrap
        ∧ drawn.params = s.params := by
      rcases hcase with ⟨hout, rfl⟩ | ⟨hout, hfits, hi, hb, rfl⟩
      · have hdrawn := drawCell_outside (coord s.cursorX) (coord s.cursorY) code s.textColour s.backgroundColour s hout
        rw [exec_write_of_drawn hready hlf hcr hdrawn, cellStatus_outside hout]
        exact ⟨rfl, rfl, rfl, rfl, rfl⟩
      · have hdrawn := drawCell_done code s.textColour s.backgroundColour hi hout hfits hb
        rw [exec_write_of_drawn hready hlf hcr hdrawn, cellStatus_meets hout]
        exact ⟨rfl, rfl, rfl, rfl, rfl⟩
    rw [hexec]
    refine ⟨fun hover => ?_, fun hon hadvance hpast hover => ?_⟩
    · rw [advanceCursor_overflows (by rw [hx, hparams]; exact not_le.2 hover)]
      rfl
    · have hadvance' : drawn.cursorX.toInt + drawn.params.textWidth ≤ 32767 := by rwa [hx, hparams]
      have hfires : WrapFires (setCursorX (u16 (coord drawn.cursorX + drawn.params.textWidth)) drawn) := by
        refine ⟨hwrap.trans hon, ?_⟩
        rw [setCursorX_cursorX, coord_advanced hadvance', setCursorX_params, hx, hparams]
        exact hpast
      rw [advanceCursor_fits hadvance', wrapLine_overflows hfires (by
        rw [setCursorX_cursorY, setCursorX_params, hy, hparams]
        exact not_le.2 hover)]
      rfl

/-! ## The row -/

/-- Wrap is on, the parameters are those of s, and the cursor is not left of the surface. -/
def RightOfOrigin (s t : State) : Prop := t.params = s.params ∧ t.wrap = true ∧ 0 ≤ coord t.cursorX

/-- As `RightOfOrigin`, and the cursor's cell ends in the row. -/
def StaysInRow (s t : State) : Prop := CursorInRow t ∧ t.wrap = true ∧ t.params = s.params

theorem StaysInRow.of_busFrame {s t u : State} (h : StaysInRow s t) (hu : BusFrame t u) : StaysInRow s u := by
  rw [hu.2]
  exact h

theorem staysInRow_setCursorX_zero {s t : State} (hparams : t.params = s.params) (hwrap : t.wrap = true)
    (hfits : s.params.textWidth ≤ s.params.width) : StaysInRow s (setCursorX 0 t) := by
  have hzero : coord 0 = 0 := rfl
  refine ⟨?_, hwrap, hparams⟩
  simp only [CursorInRow, setCursorX_cursorX, setCursorX_params, hzero, hparams]
  omega

theorem wrapLine_staysInRow {s t : State} (hfits : s.params.textWidth ≤ s.params.width) (h : RightOfOrigin s t) :
    (wrapLine t).Ends (StaysInRow s) (StaysInRow s) := by
  obtain ⟨hparams, hwrap, hzero⟩ := h
  by_cases hfires : WrapFires t
  · have hstart := staysInRow_setCursorX_zero hparams hwrap hfits
    by_cases hline : t.cursorY.toInt + t.params.textHeight ≤ 32767
    · by_cases hrow : t.cursorY.toInt + t.params.textHeight ≤ t.params.height
      · rw [wrapLine_to_next_row hfires hline hrow]
        exact hstart
      · rw [wrapLine_past_bottom hfires hline hrow]
        exact hstart
    · rw [wrapLine_overflows hfires hline]
      exact hstart
  · rw [wrapLine_stays hfires]
    exact ⟨⟨hzero, not_lt.1 fun hpast => hfires ⟨hwrap, hpast⟩⟩, hwrap, hparams⟩

theorem advanceCursor_staysInRow {s t : State} (hfits : s.params.textWidth ≤ s.params.width) (h : StaysInRow s t) :
    (advanceCursor t).Ends (StaysInRow s) (StaysInRow s) := by
  obtain ⟨⟨hzero, hend⟩, hwrap, hparams⟩ := h
  by_cases hadvance : t.cursorX.toInt + t.params.textWidth ≤ 32767
  · have hadvanced : RightOfOrigin s (setCursorX (u16 (coord t.cursorX + t.params.textWidth)) t) := by
      refine ⟨hparams, hwrap, ?_⟩
      rw [setCursorX_cursorX, coord_advanced hadvance]
      exact Int.add_nonneg hzero (Int.natCast_nonneg _)
    rw [advanceCursor_fits hadvance]
    refine Progress.Ends.andThen (wrapLine_staysInRow hfits hadvanced) fun u hu => ?_
    exact hu
  · rw [advanceCursor_overflows hadvance]
    exact ⟨⟨hzero, hend⟩, hwrap, hparams⟩

theorem printable_staysInRow (code : Byte) {s : State} (hfits : s.params.textWidth ≤ s.params.width) (h : StaysInRow s s) :
    (printable code s).Ends (StaysInRow s) (StaysInRow s) := by
  have hdraw := drawCell_sends (coord s.cursorX) (coord s.cursorY) code s.textColour s.backgroundColour s
  refine (hdraw.mono (fun _ hu => h.of_busFrame hu.busFrame) fun _ hu => h.of_busFrame hu.frame).andThen fun u hu => ?_
  exact advanceCursor_staysInRow (t := stageStatus _ u) hfits hu

theorem lineFeed_staysInRow {s : State} (hfits : s.params.textWidth ≤ s.params.width) (hwrap : s.wrap = true) :
    (lineFeed s).Ends (StaysInRow s) (StaysInRow s) := by
  have hstart := staysInRow_setCursorX_zero rfl hwrap hfits
  unfold lineFeed putCoord
  split
  · exact hstart
  · exact hstart

/-- Settles O38: every ending of WRITE, a fault among them, leaves the cursor in the row; an engine that dropped the request has not
moved it. -/
theorem wrapKeepsTheCursorInTheRow : Obligations.WrapKeepsTheCursorInTheRow := by
  intro code s t _ hfits hwrap hrow h
  have hstart : StaysInRow s s := ⟨hrow, hwrap, rfl⟩
  refine exec_next_relation (R := StaysInRow) h hstart ?_
  have hends : (if code.toNat = 10 then lineFeed s else if code.toNat = 13 then .done (setStatus .ok s) else printable code s).Ends
      (StaysInRow s) (StaysInRow s) := by
    split_ifs
    · exact lineFeed_staysInRow hfits hwrap
    · exact hstart
    · exact printable_staysInRow code hfits hstart
  exact (hends.andThen (D' := StaysInRow s) (f := fun t => .done (respond 1 t)) fun u hu => hu).state

end Sys2Proof.Machine
end

section
/-! PROOFS. INIT over its several steps: the closing fill, the whole sequence, and that it comes to an end; obligations O45, O46 and
O47 (43_display_surface.md section 4, 41_command_protocol.md section 2). -/

namespace Sys2Proof.Machine

/-! ## The closing fill -/

theorem surface_of_wf {p : Params} (h : p.wf = true) : 1 ≤ p.width ∧ 1 ≤ p.height := by
  simp only [Params.wf, Bool.and_eq_true, decide_eq_true_eq] at h
  omega

/-- How many pixels the closing fill has. -/
abbrev fillSize (p : Params) : Nat := p.width * min p.height p.width

/-- The events of the closing fill. -/
abbrev closingEvents (p : Params) (bg : Colour) : List Event :=
  drawEvents p 0 0 ((p.width : Int) - 1) ((min p.height p.width : Nat) - 1 : Int) (List.replicate (fillSize p) bg)

/-- s at the end of INIT. -/
def afterFill (s : State) : State :=
  { s with
    cs := true, dc := true, phase := .idle, hist := s.hist ++ closingEvents s.params s.backgroundColour
    status := if s.params.height > s.params.width then .clippedPartial else .ok
    busLeft := busSpend (11 + 2 * fillSize s.params) s.busLeft }

theorem finishInit_done {s : State} (hi : s.initialised = true) (hwf : s.params.wf = true)
    (hb : busCompletes (11 + 2 * fillSize s.params) s.busLeft = true) : finishInit s = .done (afterFill s) := by
  obtain ⟨hw, hh⟩ := surface_of_wf hwf
  have hwide : clampAt s.params.width 0 (s.params.width - 1) = (s.params.width : Int) - 1 := by rw [clampAt_eq_min]; omega
  have hhigh : clampAt s.params.width 0 (s.params.height - 1) = ((min s.params.height s.params.width : Nat) : Int) - 1 := by
    rw [clampAt_eq_min]; omega
  have hclips : (clipsAt s.params.width 0 (s.params.width - 1) || clipsAt s.params.width 0 (s.params.height - 1))
      = decide (s.params.height > s.params.width) := by
    rw [Bool.eq_iff_iff, Bool.or_eq_true, clipsAt_iff, clipsAt_iff, decide_eq_true_iff]
    omega
  have hsize : (((s.params.width : Int) - 1 + 1) * (((min s.params.height s.params.width : Nat) : Int) - 1 + 1)).toNat
      = fillSize s.params := by
    rw [sub_add_cancel, sub_add_cancel, ← Nat.cast_mul, Int.toNat_natCast]
  rw [finishInit, fillRectBody_inside _ _ _ (by omega), if_neg (by omega), hwide, hhigh, hclips,
    sendFill_done _ _ _ _ _ _ s _ hi hsize hb]
  simp only [Progress.andThen_done, fillStatus, decide_eq_true_eq, zero_add]
  rfl

theorem step_of_fill {s : State} (hready : Ready s) (hphase : s.phase = .records) (hrc : s.rc = 0) (hi : s.initialised = true)
    (hwf : s.params.wf = true) (hb : busCompletes (11 + 2 * fillSize s.params) s.busLeft = true) :
    step s = .next (afterFill s) := by
  rw [step_of_records hready hphase, fetchRecord, if_pos hrc, finishInit_done hi hwf hb]
  rfl

/-- Settles O45: FILLRECT's body over the whole surface, with its height clamped against WIDTH. -/
theorem initEndsWithTheFill : Obligations.InitEndsWithTheFill := fun _ hready hphase hrc hi hwf hb =>
  step_of_fill hready hphase hrc hi hwf hb

/-! ## Runs -/

theorem run_of_step {s t : State} (h : step s = .next t) (k : Nat) : run (k + 1) s = run k t := by rw [run, h]

/-- s with the lines up, inside INIT before the count. -/
def afterBringUp (rest : List Frame) (s : State) : State :=
  { s with
    host := rest, csOut := true, dcOut := true, rstOut := true, initialised := true, rst := true, tp := 0, phase := .header
    hist := s.hist ++ bringUpEvents }

theorem step_of_init {s : State} {rest : List Frame} (hready : Ready s) (hphase : s.phase = .idle)
    (hhost : s.host = [0x00#8] :: rest) : step s = .next (afterBringUp rest s) := by
  have hdecode : decodeFrame [0x00#8] = .ok .init := decodeFrame_encode (i := .init) rfl
  have hbody : ∀ t, body .init t = initBody t := fun _ => rfl
  rw [step_of_request hready hphase hhost, serveFrame_of_decoded hdecode, exec_ready _ { s with host := rest } hready, hbody,
    initBody_eq]
  rfl

/-- s with the record counter loaded. -/
def afterCount (n : Byte) (s : State) : State := { s with rc := n.toNat, tp := s.tp + 1, phase := .records }

theorem step_of_count {s : State} {n : Byte} {bytes : List Byte} (hready : Ready s) (hphase : s.phase = .header)
    (hunread : unread s = n :: bytes) : step s = .next (afterCount n s) := by
  rw [step_of_header hready hphase, fetchHeader_of_count hunread]
  exact tableCountLoadsTheCounter n s hready

/-! ## The records of a well-formed table -/

/-- s after these records, with CS and DC at some levels. -/
def afterRecords (is : List Instr) (cs dc : Bool) (s : State) : State :=
  { s with
    tp := s.tp + (is.flatMap encode).length, rc := s.rc - is.length, cs := cs, dc := dc, hist := s.hist ++ is.flatMap recordEvents
    busLeft := busSpend (is.map recordBytes).sum s.busLeft }

/-- One record whose bytes complete. -/
theorem exec_of_record {i : Instr} {s : State} (hstream : i.stream = .records) (hready : Ready s) (hi : s.initialised = true)
    (hb : busCompletes (recordBytes i) s.busLeft = true) : ∃ dc, exec i s = .next (afterRecords [i] true dc s) := by
  cases i with
  | record cmd args =>
    refine ⟨!args.isEmpty, ?_⟩
    have htp : s.tp + 2 + args.length = s.tp + (encode (.record cmd args)).length := by simp [encode]; omega
    rw [recordSendsCommandThenArguments cmd args s hready hi hb, htp]
    simp [afterRecords, recordEvents, recordBytes]
  | recordDelay cmd args d =>
    refine ⟨!args.isEmpty, ?_⟩
    have htp : s.tp + 3 + args.length = s.tp + (encode (.recordDelay cmd args d)).length := by simp [encode]; omega
    rw [recordDelayEndsInItsDelay cmd d args s hready hi hb, htp, ← delayMs_eq]
    simp [afterRecords, recordEvents, recordBytes]
  | _ => cases hstream

theorem afterRecords_cons (i : Instr) (is : List Instr) (cs dc cs' dc' : Bool) (s : State) :
    afterRecords is cs dc (afterRecords [i] cs' dc' s) = afterRecords (i :: is) cs dc s := by
  simp [afterRecords, busSpend_add, Nat.add_assoc, Nat.sub_sub, Nat.add_comm]

theorem decodeRecords_succ {n : Nat} {bytes trailing : List Byte} {is : List Instr}
    (h : decodeRecords (n + 1) bytes = .ok (is, trailing)) :
    ∃ i rest js, decodeRecord bytes = .ok (i, rest) ∧ decodeRecords n rest = .ok (js, trailing) ∧ is = i :: js := by
  simp only [decodeRecords] at h
  split at h
  · cases h
  · rename_i i rest hi
    split at h
    · cases h
    · rename_i js tail hjs
      cases h
      exact ⟨i, rest, js, hi, hjs, rfl⟩

/-- One step a record. -/
theorem run_records {is : List Instr} {trailing : List Byte} {s : State} (hready : Ready s) (hphase : s.phase = .records)
    (hrc : s.rc = is.length) (hi : s.initialised = true) (hrecords : decodeRecords is.length (unread s) = .ok (is, trailing))
    (hb : busCompletes (is.map recordBytes).sum s.busLeft = true) :
    ∃ cs dc, ∀ k, run (k + is.length) s = run k (afterRecords is cs dc s) := by
  induction is generalizing s with
  | nil => exact ⟨s.cs, s.dc, fun k => by simp [afterRecords]⟩
  | cons i is ih =>
    obtain ⟨j, rest, js, hj, hrest, heq⟩ := decodeRecords_succ hrecords
    obtain ⟨rfl, rfl⟩ := List.cons.inj heq
    obtain ⟨-, hstream, hbytes⟩ := encode_of_decodeRecord hj
    rw [List.map_cons, List.sum_cons] at hb
    obtain ⟨hb₁, hb₂⟩ := (busCompletes_add _ _ _).1 hb
    obtain ⟨dc, hexec⟩ := exec_of_record hstream hready hi hb₁
    have hstep : step s = .next (afterRecords [i] true dc s) := by
      rw [← hexec]
      exact (stepRunsTheDecodedInstruction i s hready).2.2 rest hphase (by rw [hrc]; exact Nat.succ_ne_zero _) hj
    have hunread : unread (afterRecords [i] true dc s) = rest := by
      change s.params.initTable.drop (s.tp + ([i].flatMap encode).length) = rest
      rw [← List.drop_drop, List.flatMap_singleton]
      change (unread s).drop _ = rest
      rw [hbytes, List.drop_left]
    have hcount : s.rc - 1 = is.length := by rw [hrc]; rfl
    obtain ⟨cs', dc', hrun⟩ := ih (s := afterRecords [i] true dc s) hready hphase hcount hi (by rw [hunread]; exact hrest)
      (by simpa [afterRecords] using hb₂)
    refine ⟨cs', dc', fun k => ?_⟩
    rw [List.length_cons, ← Nat.add_assoc, run_of_step hstep, hrun, afterRecords_cons]

/-- Settles O46: the bring-up, the count, one step a record, and the fill. -/
theorem initRunsItsWholeSequence : Obligations.InitRunsItsWholeSequence := by
  intro s rest is hready hphase hhost hwf htable p n bytes hb
  obtain ⟨hb₁, hb₂⟩ := (busCompletes_add _ _ _).1 hb
  obtain ⟨count, body, trailing, htab, hrecords⟩ := decodeTable_eq_ok htable
  obtain ⟨-, hlen, -⟩ := encode_of_decodeRecords hrecords
  have hready' : Ready (afterBringUp rest s) := hready
  have hunread : unread (afterBringUp rest s) = count :: body := htab
  have hunread' : unread (afterCount count (afterBringUp rest s)) = body := by
    change s.params.initTable.drop 1 = body
    rw [htab]
    rfl
  obtain ⟨cs, dc, hrun⟩ := run_records (is := is) (trailing := trailing) (s := afterCount count (afterBringUp rest s)) hready rfl
    hlen.symm rfl (by rw [hunread', hlen]; exact hrecords) hb₁
  have hfill : step (afterRecords is cs dc (afterCount count (afterBringUp rest s)))
      = .next (afterFill (afterRecords is cs dc (afterCount count (afterBringUp rest s)))) :=
    step_of_fill hready rfl (by simp [afterRecords, afterCount, hlen]) rfl hwf hb₂
  rw [show is.length + 3 = 1 + is.length + 1 + 1 by omega, run_of_step (step_of_init hready hphase hhost),
    run_of_step (step_of_count hready' rfl hunread), hrun, run_of_step hfill, run]
  simp [afterFill, closingEvents, fillSize, afterRecords, afterCount, afterBringUp, hlen, busSpend_add, bytes, p, n]

/-! ## Termination -/

/-- Inside INIT's replay with n records left, on a bus that completes every byte. -/
structure Replay (p : Params) (rest : List Frame) (n : Nat) (t : State) : Prop where
  ready : Ready t
  phase : t.phase = .records
  initialised : t.initialised = true
  busLeft : t.busLeft = none
  params : t.params = p
  host : t.host = rest
  rc : t.rc = n
  tp : t.tp ≤ p.initTable.length

/-- INIT is over, with at most a DecodeError. -/
def InitOver (p : Params) (rest : List Frame) (t : State) : Prop :=
  t.phase = .idle ∧ t.host = rest ∧ t.stuck = none ∧ (t.fault = none ∨ ∃ a, a ≤ p.initTable.length ∧ t.fault = some (.decodeError a))

theorem Replay.afterBus {p : Params} {rest : List Frame} {n k : Nat} {cs dc : Bool} {es : List Event} {t : State}
    (h : Replay p rest n t) : Replay p rest n (afterBus cs dc es k t) := by
  obtain ⟨hready, hphase, hi, hb, hparams, hhost, hrc, htp⟩ := h
  exact ⟨hready, hphase, hi, by rw [afterBus_busLeft, hb]; rfl, hparams, hhost, hrc, htp⟩

theorem Replay.sendData {p : Params} {rest : List Frame} {n : Nat} {t : State} (b : Byte) (h : Replay p rest n t) :
    (sendData b t).Ends (Replay p rest n) (InitOver p rest) := by
  rw [sendData_done b t h.initialised (by rw [h.busLeft]; rfl)]
  exact h.afterBus

theorem Replay.sendCommand {p : Params} {rest : List Frame} {n : Nat} {t : State} (b : Byte) (h : Replay p rest n t) :
    (sendCommand b t).Ends (Replay p rest n) (InitOver p rest) := by
  rw [sendCommand_done b t h.initialised (by rw [h.busLeft]; rfl)]
  exact h.afterBus

theorem Replay.decodeError {p : Params} {rest : List Frame} {n : Nat} {t : State} (h : Replay p rest n t) :
    InitOver p rest (raise (.decodeError t.tp) t).state := ⟨rfl, h.host, h.ready.1, .inr ⟨t.tp, h.tp, rfl⟩⟩

theorem Replay.interpretRecord {p : Params} {rest : List Frame} {n : Nat} {t : State} (h : Replay p rest (n + 1) t) :
    (interpretRecord t).Ends (Replay p rest n) (InitOver p rest) := by
  refine interpretRecord_ends (D := Replay p rest (n + 1)) (fun u hu hlt => ?_) (fun u hu _ => hu.decodeError)
    (fun b u hu => hu.sendData b) (fun b u hu => hu.sendCommand b) (fun ms u hu => ?_) (fun u hu => ?_) h
  · obtain ⟨hready, hphase, hi, hb, hparams, hhost, hrc, -⟩ := hu
    exact ⟨hready, hphase, hi, hb, hparams, hhost, hrc, by rw [← hparams]; exact hlt⟩
  · obtain ⟨hready, hphase, hi, hb, hparams, hhost, hrc, htp⟩ := hu
    exact ⟨hready, hphase, hi, hb, hparams, hhost, hrc, htp⟩
  · obtain ⟨hready, hphase, hi, hb, hparams, hhost, hrc, htp⟩ := hu
    exact ⟨hready, hphase, hi, hb, hparams, hhost, by rw [endRecord, hrc]; rfl, htp⟩

/-- One step a record at most, and one for the fill. -/
theorem Replay.terminates {p : Params} {rest : List Frame} {n : Nat} {s : State} (hwf : p.wf = true) (h : Replay p rest n s) :
    ∃ k t, k ≤ n + 1 ∧ run k s = .next t ∧ InitOver p rest t := by
  induction n generalizing s with
  | zero =>
    have hfill := step_of_fill h.ready h.phase h.rc h.initialised (by rw [h.params]; exact hwf) (by rw [h.busLeft]; rfl)
    refine ⟨1, afterFill s, le_rfl, ?_, rfl, h.host, h.ready.1, .inl h.ready.2⟩
    rw [run_of_step hfill]
    rfl
  | succ n ih =>
    have hstep := recordStepIsTheByteInterpreter s h.ready h.phase (by rw [h.rc]; exact Nat.succ_ne_zero n)
    have hends := h.interpretRecord
    cases hrecord : Machine.interpretRecord s with
    | done u =>
      rw [hrecord] at hends hstep
      obtain ⟨k, t, hk, hrun, hover⟩ := ih hends
      exact ⟨k + 1, t, by omega, by rw [run_of_step hstep]; exact hrun, hover⟩
    | halted u =>
      rw [hrecord] at hends hstep
      exact ⟨1, u, by omega, by rw [run_of_step hstep]; rfl, hends⟩

/-- Settles O47: the bring-up, the count (or its DecodeError), at most 255 records, the fill. -/
theorem initTerminates : Obligations.InitTerminates := by
  intro s rest hready hphase hhost hb hwf
  have hinit := step_of_init hready hphase hhost
  have hready' : Ready (afterBringUp rest s) := hready
  cases htable : s.params.initTable with
  | nil =>
    have hend : unread (afterBringUp rest s) = [] := htable
    have hstep : step (afterBringUp rest s) = .next (raise (.decodeError 0) (afterBringUp rest s)).state := by
      rw [step_of_header hready' rfl, fetchHeader_of_end hend]
      rfl
    refine ⟨2, (raise (.decodeError 0) (afterBringUp rest s)).state, by decide, ?_, rfl, rfl, hready.1,
      .inr ⟨0, Nat.zero_le _, rfl⟩⟩
    rw [run_of_step hinit, run_of_step hstep]
    rfl
  | cons count bytes =>
    have hunread : unread (afterBringUp rest s) = count :: bytes := htable
    have hreplay : Replay s.params rest count.toNat (afterCount count (afterBringUp rest s)) :=
      ⟨hready, rfl, rfl, hb, rfl, rfl, rfl, by rw [htable]; exact Nat.succ_le_succ (Nat.zero_le _)⟩
    obtain ⟨k, t, hk, hrun, hover⟩ := hreplay.terminates hwf
    have hcount := count.isLt
    refine ⟨k + 1 + 1, t, by omega, ?_, htable ▸ hover⟩
    rw [run_of_step hinit, run_of_step (step_of_count hready' rfl hunread)]
    exact hrun

end Sys2Proof.Machine
end

section
/-! PROOFS. The reference panel: what a window and a run of samples leave in its memory, and obligations O59 and O60 (20_memory.md
R52). -/

namespace Sys2Proof.Machine

/-! ## The stream -/

theorem Panel.takeAll_append (q : Panel) (ls ms : List Logical) :
    q.takeAll (ls ++ ms) = (q.takeAll ls).bind fun q => q.takeAll ms := by
  induction ls generalizing q with
  | nil => rfl
  | cons l ls ih =>
    simp only [List.cons_append, Panel.takeAll]
    cases q.take l with
    | none => rfl
    | some r => exact ih r

theorem toNat_u16 {n : Nat} (h : n ≤ 32767) : (u16 (n : Int)).toNat = n := by
  simp only [u16, BitVec.ofInt_natCast, BitVec.toNat_ofNat]
  omega

/-- A range that lies in the surface. -/
theorem coordPair_u16 {length a b : Nat} (hlength : length ≤ 32767) (hab : a ≤ b) (hb : b < length) :
    coordPair length (hi8 (u16 a)) (lo8 (u16 a)) (hi8 (u16 b)) (lo8 (u16 b)) = some (a, b) := by
  simp only [coordPair, joinBytes_hi8_lo8, toNat_u16 (show a ≤ 32767 by omega), toNat_u16 (show b ≤ 32767 by omega)]
  exact if_pos ⟨hab, hb⟩

/-! ## The window -/

theorem Panel.takeAll_columns {q : Panel} {a b c d : Byte} {r : Nat × Nat} (hpair : coordPair q.height a b c d = some r) :
    q.takeAll [.cmd q.cmdColset, .data a, .data b, .data c, .data d] = some { q with input := .ignored, ys := some r } := by
  simp only [Panel.takeAll, Panel.take, Panel.takeCommand, if_true, Panel.takeData, List.nil_append, List.cons_append, hpair,
    Option.map_some]

theorem Panel.takeAll_rows {q : Panel} {a b c d : Byte} {r : Nat × Nat} (hrow : q.cmdRowset ≠ q.cmdColset)
    (hpair : coordPair q.width a b c d = some r) :
    q.takeAll [.cmd q.cmdRowset, .data a, .data b, .data c, .data d] = some { q with input := .ignored, xs := some r } := by
  simp only [Panel.takeAll, Panel.take, Panel.takeCommand, if_true, if_neg hrow, Panel.takeData, List.nil_append, List.cons_append,
    hpair, Option.map_some]

theorem Panel.takeAll_memoryWrite (q : Panel) (hcol : q.cmdRamwr ≠ q.cmdColset) (hrow : q.cmdRamwr ≠ q.cmdRowset) :
    q.takeAll [.cmd q.cmdRamwr] = some { q with input := .pixels none, pos := 0 } := by
  simp only [Panel.takeAll, Panel.take, Panel.takeCommand, if_true, if_neg hcol, if_neg hrow]

/-- q with this window, before its first sample. -/
def Panel.windowed (q : Panel) (x0 y0 x1 y1 : Nat) : Panel :=
  { q with input := .pixels none, ys := some (y0, y1), xs := some (x0, x1), pos := 0 }

/-- The panel on the far side of an engine with these parameters, whose three command bytes differ. -/
structure Panel.Fits (q : Panel) (p : Params) : Prop where
  width : q.width = p.width
  height : q.height = p.height
  colset : q.cmdColset = p.cmdColset
  rowset : q.cmdRowset = p.cmdRowset
  ramwr : q.cmdRamwr = p.cmdRamwr
  col_row : p.cmdColset ≠ p.cmdRowset
  col_ram : p.cmdColset ≠ p.cmdRamwr
  row_ram : p.cmdRowset ≠ p.cmdRamwr

theorem surface_le_of_wf {p : Params} (h : p.wf = true) : p.width ≤ 32767 ∧ p.height ≤ 32767 := by
  simp only [Params.wf, Bool.and_eq_true, decide_eq_true_eq] at h
  omega

theorem Panel.takeAll_windowStream {p : Params} {q : Panel} {x0 y0 x1 y1 : Nat} (hwf : p.wf = true) (hq : q.Fits p) (hx : x0 ≤ x1)
    (hx1 : x1 < p.width) (hy : y0 ≤ y1) (hy1 : y1 < p.height) :
    q.takeAll (windowStream p x0 y0 x1 y1) = some (q.windowed x0 y0 x1 y1) := by
  obtain ⟨hwidth, hheight⟩ := surface_le_of_wf hwf
  have hsplit : windowStream p x0 y0 x1 y1
      = [.cmd q.cmdColset, .data (hi8 (u16 y0)), .data (lo8 (u16 y0)), .data (hi8 (u16 y1)), .data (lo8 (u16 y1))]
        ++ ([.cmd q.cmdRowset, .data (hi8 (u16 x0)), .data (lo8 (u16 x0)), .data (hi8 (u16 x1)), .data (lo8 (u16 x1))]
        ++ [.cmd q.cmdRamwr]) := by
    rw [hq.colset, hq.rowset, hq.ramwr]
    rfl
  have hrow : q.cmdRowset ≠ q.cmdColset := by rw [hq.rowset, hq.colset]; exact hq.col_row.symm
  have hram : q.cmdRamwr ≠ q.cmdColset := by rw [hq.ramwr, hq.colset]; exact hq.col_ram.symm
  have hram' : q.cmdRamwr ≠ q.cmdRowset := by rw [hq.ramwr, hq.rowset]; exact hq.row_ram.symm
  have hys : coordPair q.height (hi8 (u16 y0)) (lo8 (u16 y0)) (hi8 (u16 y1)) (lo8 (u16 y1)) = some (y0, y1) := by
    rw [hq.height]
    exact coordPair_u16 hheight hy hy1
  have hxs : coordPair q.width (hi8 (u16 x0)) (lo8 (u16 x0)) (hi8 (u16 x1)) (lo8 (u16 x1)) = some (x0, x1) := by
    rw [hq.width]
    exact coordPair_u16 hwidth hx hx1
  have hrows : ({ q with input := .ignored, ys := some (y0, y1) } : Panel).takeAll
      [.cmd q.cmdRowset, .data (hi8 (u16 x0)), .data (lo8 (u16 x0)), .data (hi8 (u16 x1)), .data (lo8 (u16 x1))]
      = some { q with input := .ignored, ys := some (y0, y1), xs := some (x0, x1) } := Panel.takeAll_rows hrow hxs
  rw [hsplit, Panel.takeAll_append, Panel.takeAll_columns hys, Option.bind_some, Panel.takeAll_append, hrows, Option.bind_some]
  exact Panel.takeAll_memoryWrite { q with input := .ignored, ys := some (y0, y1), xs := some (x0, x1) } hram hram'

/-! ## The samples -/

/-- The address sample k has in a window that begins at (x0, y0) and is n rows high. -/
def windowAddress (height x0 y0 n k : Nat) : Nat := (x0 + k / n) * height + (y0 + k % n)

/-- The pixel memory after these samples, the first of them being sample k. -/
def writeSamples (address : Nat → Nat) (k : Nat) (vs : List Colour) (m : List (Nat × Colour)) : List (Nat × Colour) :=
  match vs with
  | [] => m
  | v :: vs => writeSamples address (k + 1) vs (gramWrite (address k) v m)

theorem gramRead_writeSamples_of_not_mem {address : Nat → Nat} {k a : Nat} {vs : List Colour} (m : List (Nat × Colour))
    (h : ∀ i, k ≤ i → i < k + vs.length → a ≠ address i) : gramRead a (writeSamples address k vs m) = gramRead a m := by
  induction vs generalizing k m with
  | nil => rfl
  | cons v vs ih =>
    rw [List.length_cons] at h
    rw [writeSamples, ih _ fun i hi hlt => h i (by omega) (by omega), gramRead_gramWrite, if_neg (h k le_rfl (by omega))]

theorem gramRead_writeSamples {address : Nat → Nat} {k i : Nat} {vs : List Colour} (m : List (Nat × Colour)) (hi : i < vs.length)
    (hinj : ∀ j j', address j = address j' → j = j') : gramRead (address (k + i)) (writeSamples address k vs m) = vs[i]? := by
  induction vs generalizing k i m with
  | nil => exact absurd hi (Nat.not_lt_zero i)
  | cons v vs ih =>
    rw [writeSamples]
    cases i with
    | zero =>
      have hlater : ∀ j, k + 1 ≤ j → j < k + 1 + vs.length → address k ≠ address j := by
        intro j hj _ heq
        exact absurd (hinj _ _ heq) (by omega)
      rw [Nat.add_zero, gramRead_writeSamples_of_not_mem _ hlater, gramRead_gramWrite, if_pos rfl]
      rfl
    | succ i =>
      rw [show k + (i + 1) = k + 1 + i by omega, ih _ (Nat.lt_of_succ_lt_succ hi)]
      rfl

theorem windowAddress_inj {height x0 y0 n : Nat} (hn : 0 < n) (hfits : y0 + n ≤ height) (j j' : Nat)
    (h : windowAddress height x0 y0 n j = windowAddress height x0 y0 n j') : j = j' := by
  have hmod := Nat.mod_lt j hn
  have hmod' := Nat.mod_lt j' hn
  obtain ⟨hcol, hrow⟩ := pixel_address_inj (by omega) (by omega) h
  rw [← Nat.div_add_mod j n, ← Nat.div_add_mod j' n, show j / n = j' / n by omega, show j % n = j' % n by omega]

/-- Samples that the window has room for are all taken. -/
theorem Panel.takeAll_sampleStream {q : Panel} {x0 y0 x1 y1 : Nat} (vs : List Colour) (hinput : q.input = .pixels none)
    (hxs : q.xs = some (x0, x1)) (hys : q.ys = some (y0, y1)) (hroom : q.pos + vs.length ≤ (x1 - x0 + 1) * (y1 - y0 + 1)) :
    q.takeAll (sampleStream vs) = some { q with
      input := .pixels none, pos := q.pos + vs.length
      gram := writeSamples (windowAddress q.height x0 y0 (y1 - y0 + 1)) q.pos vs q.gram } := by
  induction vs generalizing q with
  | nil =>
    rw [← hinput]
    rfl
  | cons v vs ih =>
    rw [List.length_cons] at hroom ⊢
    have hsample : q.takeAll [.data (hi8 v), .data (lo8 v)] = some { q with
        input := .pixels none, pos := q.pos + 1
        gram := gramWrite (windowAddress q.height x0 y0 (y1 - y0 + 1) q.pos) v q.gram } := by
      simp only [Panel.takeAll, Panel.take, Panel.takeData, hinput, Panel.takeSample, hxs, hys, joinBytes_hi8_lo8]
      rw [if_pos (by omega)]
      rfl
    have hrest := ih (q := { q with
      input := .pixels none, pos := q.pos + 1
      gram := gramWrite (windowAddress q.height x0 y0 (y1 - y0 + 1) q.pos) v q.gram }) rfl hxs hys (by
        change q.pos + 1 + vs.length ≤ _
        omega)
    change q.takeAll ([.data (hi8 v), .data (lo8 v)] ++ sampleStream vs) = _
    rw [Panel.takeAll_append, hsample, Option.bind_some, hrest, Nat.add_assoc q.pos, Nat.add_comm 1 vs.length]
    rfl

/-! ## A whole drawing -/

/-- q after a drawing over the columns x to x + we and the rows y to y + he. -/
def Panel.drawn (q : Panel) (x y we he : Nat) (vs : List Colour) : Panel :=
  { q with
    input := .pixels none, ys := some (y, y + he), xs := some (x, x + we), pos := vs.length
    gram := writeSamples (windowAddress q.height x y (he + 1)) 0 vs q.gram }

/-- A drawing whose window lies in the surface is taken. -/
theorem Panel.takeAll_drawing {p : Params} {q : Panel} {x y we he : Nat} {vs : List Colour} (hwf : p.wf = true) (hq : q.Fits p)
    (hx : x + we < p.width) (hy : y + he < p.height) (hlen : vs.length = (we + 1) * (he + 1)) :
    q.takeAll (windowStream p x y ((x + we : Nat) : Int) ((y + he : Nat) : Int) ++ sampleStream vs) = some (q.drawn x y we he vs) := by
  have hwindow := Panel.takeAll_windowStream hwf hq (Nat.le_add_right x we) hx (Nat.le_add_right y he) hy
  have hwide : x + we - x + 1 = we + 1 := by omega
  have hhigh : y + he - y + 1 = he + 1 := by omega
  have hsamples := Panel.takeAll_sampleStream (q := q.windowed x y (x + we) (y + he)) vs rfl rfl rfl
    (by rw [hwide, hhigh, hlen]; exact (Nat.zero_add _).le)
  rw [Panel.takeAll_append, hwindow, Option.bind_some, hsamples, hhigh]
  simp only [Panel.drawn, Panel.windowed, Nat.zero_add]

theorem index_lt_of_le {i j we he : Nat} (hi : i ≤ we) (hj : j ≤ he) : i * (he + 1) + j < (we + 1) * (he + 1) := by
  have hblock : i * (he + 1) ≤ we * (he + 1) := Nat.mul_le_mul_right _ hi
  rw [Nat.succ_mul]
  omega

/-- Pixel (i, j) of the window takes its sample; the samples come column by column. -/
theorem Panel.drawn_pixel_inside {q : Panel} {x y we he i j : Nat} {vs : List Colour} (hx : x + we < q.width) (hy : y + he < q.height)
    (hlen : vs.length = (we + 1) * (he + 1)) (hi : i ≤ we) (hj : j ≤ he) :
    (q.drawn x y we he vs).pixel (x + i) (y + j) = vs[i * (he + 1) + j]? := by
  have hdiv : (i * (he + 1) + j) / (he + 1) = i := by
    rw [Nat.mul_comm, Nat.mul_add_div (Nat.succ_pos he), Nat.div_eq_of_lt (by omega), Nat.add_zero]
  have hmod : (i * (he + 1) + j) % (he + 1) = j := by rw [Nat.mul_comm, Nat.mul_add_mod, Nat.mod_eq_of_lt (by omega)]
  have hread := gramRead_writeSamples (k := 0) q.gram (hlen ▸ index_lt_of_le hi hj)
    (windowAddress_inj (x0 := x) (Nat.succ_pos he) (show y + (he + 1) ≤ q.height by omega))
  rw [Nat.zero_add, windowAddress, hdiv, hmod] at hread
  have hcol : x + i < (q.drawn x y we he vs).width := lt_of_le_of_lt (Nat.add_le_add_left hi x) hx
  have hrow : y + j < (q.drawn x y we he vs).height := lt_of_le_of_lt (Nat.add_le_add_left hj y) hy
  rw [Panel.pixel_inside hcol hrow]
  exact hread

/-- A pixel outside the window is as before. -/
theorem Panel.drawn_pixel_outside {q : Panel} {x y we he x' y' : Nat} {vs : List Colour} (hy : y + he < q.height)
    (hlen : vs.length = (we + 1) * (he + 1)) (hx' : x' < q.width) (hy' : y' < q.height)
    (hout : ¬ (x ≤ x' ∧ x' ≤ x + we ∧ y ≤ y' ∧ y' ≤ y + he)) : (q.drawn x y we he vs).pixel x' y' = q.pixel x' y' := by
  have hcol : x' < (q.drawn x y we he vs).width := hx'
  have hrow : y' < (q.drawn x y we he vs).height := hy'
  rw [Panel.pixel_inside hx' hy', Panel.pixel_inside hcol hrow]
  refine gramRead_writeSamples_of_not_mem q.gram fun k _ hk heq => hout ?_
  have hmod : k % (he + 1) < he + 1 := Nat.mod_lt k (Nat.succ_pos he)
  have hdiv : k / (he + 1) < we + 1 := by
    rw [Nat.div_lt_iff_lt_mul (Nat.succ_pos he), ← hlen]
    omega
  obtain ⟨rfl, rfl⟩ := pixel_address_inj hy' (show y + k % (he + 1) < q.height by omega) heq
  exact ⟨Nat.le_add_right _ _, Nat.add_le_add_left (Nat.le_of_lt_succ hdiv) x, Nat.le_add_right _ _,
    Nat.add_le_add_left (Nat.le_of_lt_succ hmod) y⟩

/-- Settles O60: every sample is the colour. -/
theorem fillLandsOnItsRectangle : Obligations.FillLandsOnItsRectangle := by
  intro p q x y we he colour hwf hwidth hheight hcol hrow hram hcr hcm hrm hx hy
  have hlen : (List.replicate ((we + 1) * (he + 1)) colour).length = (we + 1) * (he + 1) := List.length_replicate
  have htake := Panel.takeAll_drawing hwf ⟨hwidth, hheight, hcol, hrow, hram, hcr, hcm, hrm⟩ hx hy hlen
  refine ⟨_, by exact_mod_cast htake, fun x' y' hx' hy' => ?_⟩
  rw [← hwidth] at hx hx'
  rw [← hheight] at hy hy'
  by_cases hrect : x ≤ x' ∧ x' ≤ x + we ∧ y ≤ y' ∧ y' ≤ y + he
  · rw [if_pos hrect]
    obtain ⟨hx0, hx1, hy0, hy1⟩ := hrect
    obtain ⟨i, rfl⟩ := Nat.exists_eq_add_of_le hx0
    obtain ⟨j, rfl⟩ := Nat.exists_eq_add_of_le hy0
    have hi := Nat.le_of_add_le_add_left hx1
    have hj := Nat.le_of_add_le_add_left hy1
    rw [Panel.drawn_pixel_inside hx hy hlen hi hj, List.getElem?_replicate, if_pos (index_lt_of_le hi hj)]
  · rw [if_neg hrect]
    exact Panel.drawn_pixel_outside hy hlen hx' hy' hrect

/-- Sample (i, j) of a glyph, in the font's own bytes. -/
theorem glyphSamples_getElem? (p : Params) (code : Byte) (fg bg : Colour) {i j : Nat} (hi : i < p.textWidth) (hj : j < p.textHeight) :
    (glyphSamples p code fg bg)[i * p.textHeight + j]?
      = some (if i + 2 ≤ p.textWidth ∧ (fontRead p (glyphIndex code) i).getLsbD j = true then fg else bg) := by
  rw [glyphSamples, expandGlyph_getElem? p _ fg bg hi hj, glyphSample_of_column p fg bg j (rasterizeGlyph_getElem? p code hi)]
  by_cases hdrawable : i + 2 ≤ p.textWidth
  · rw [glyphColumn, if_pos hdrawable]
  · rw [if_neg fun h => hdrawable h.1, if_neg fun h => hdrawable h.1]

theorem cell_of_wf {p : Params} (h : p.wf = true) : 1 ≤ p.textWidth ∧ 1 ≤ p.textHeight := by
  simp only [Params.wf, Bool.and_eq_true, decide_eq_true_eq] at h
  omega

/-- Settles O59: the window is the cell, and its samples are the glyph's. -/
theorem glyphLandsOnItsCell : Obligations.GlyphLandsOnItsCell := by
  intro p q x y code fg bg hwf hwidth hheight hcol hrow hram hcr hcm hrm hx hy
  obtain ⟨htw, hth⟩ := cell_of_wf hwf
  have hlen : (glyphSamples p code fg bg).length = (p.textWidth - 1 + 1) * (p.textHeight - 1 + 1) := by
    rw [glyphSamples_length, Nat.sub_add_cancel htw, Nat.sub_add_cancel hth]
  have hx' : x + (p.textWidth - 1) < p.width := by omega
  have hy' : y + (p.textHeight - 1) < p.height := by omega
  have htake := Panel.takeAll_drawing hwf ⟨hwidth, hheight, hcol, hrow, hram, hcr, hcm, hrm⟩ hx' hy' hlen
  have hx1 : (x : Int) + p.textWidth - 1 = ((x + (p.textWidth - 1) : Nat) : Int) := by omega
  have hy1 : (y : Int) + p.textHeight - 1 = ((y + (p.textHeight - 1) : Nat) : Int) := by omega
  rw [hx1, hy1]
  rw [← hwidth] at hx'
  rw [← hheight] at hy'
  refine ⟨_, htake, fun i j hi hj => ?_, fun x' y' hx'' hy'' hrect => ?_⟩
  · rw [Panel.drawn_pixel_inside hx' hy' hlen (by omega) (by omega), Nat.sub_add_cancel hth, glyphSamples_getElem? p code fg bg hi hj]
  · exact Panel.drawn_pixel_outside hy' hlen (hwidth ▸ hx'') (hheight ▸ hy'') (by omega)

end Sys2Proof.Machine
end
